-- ==== Sys2Proof/Word.lean ====
section
/-!
DEFINITION. The value types of 00_scope.md rules R12 and R13: a byte, a 16-bit value and the 32-bit command
word, each unsigned, bit 0 the least significant bit. No value of this block is signed (R13).
-/

namespace Sys2Proof

/-- A byte, 0x00-0xFF (R12). -/
abbrev Byte := BitVec 8

/-- `u16`: the length, and every CRC value (R11). -/
abbrev U16 := BitVec 16

/-- `u32`: the command word (R84, R94). -/
abbrev U32 := BitVec 32

/-- A context handle, 8 bits wide (R11). -/
abbrev Handle := BitVec 8

end Sys2Proof
end

