-- ==== Sys2Proof/Config.lean ====
section
/-!
DEFINITION. The implementation parameters of 00_scope.md rule R10. `Params` is the parameter set a model
"takes as an argument"; the state carries one (State.Of.params) and no step changes it. `Config.params` is this
machine's set: what the spec leaves OPEN is an opaque constant, so that nothing can be proved of it but its
range (log entry 1), and `P_CRC_REFLECTED` is `false`, the spec's decision D7 (log entry 2). `TOKEN`, R10's parameter
that is a type, is an argument of the state and of every meaning; `Token` is this machine's, OPEN too (log entry 5).
-/

namespace Sys2Proof

/-- `P_MAX_SEGMENTS`: "natural ≥ 0, or UNBOUNDED" (R10). -/
inductive SegmentLimit where
  /-- UNBOUNDED: the segment-count check never fails (R145). -/
  | unbounded
  /-- At most `n` segments. -/
  | atMost (n : Nat)
deriving DecidableEq, Repr, Inhabited

/-- The parameters of R10; their ranges are `Params.wf` (Sys2Proof/WellFormed.lean). -/
structure Params where
  /-- `P_MAX_INSTANCES`, 1..256: the number of context slots. -/
  maxInstances : Nat
  /-- `P_MAX_PAYLOAD`, 0..65535: the receive buffer capacity of a context, in bytes. -/
  maxPayload : Nat
  /-- `P_TX_MAX_PAYLOAD`, 0..65535: the assembler's output capacity, in payload bytes. -/
  txMaxPayload : Nat
  /-- `P_MAX_SEGMENTS`: the most segments BUILD_SG takes. -/
  maxSegments : SegmentLimit
  /-- `P_CRC_REFLECTED`: the bit order of the CRC (R100 when false, R101 when true). -/
  crcReflected : Bool
deriving DecidableEq, Repr

/-- DESIGN CHOICE (log entry 1), safe: `P_MAX_INSTANCES - 1` is OPEN, any of 0..255. -/
opaque Config.maxInstancesLessOne : Fin 256

/-- DESIGN CHOICE (log entry 1), safe: `P_MAX_PAYLOAD` is OPEN, any of 0..65535. -/
opaque Config.maxPayload : Fin 65536

/-- DESIGN CHOICE (log entry 1), safe: `P_TX_MAX_PAYLOAD` is OPEN, any of 0..65535. -/
opaque Config.txMaxPayload : Fin 65536

/-- DESIGN CHOICE (log entry 1), safe: `P_MAX_SEGMENTS` is OPEN. -/
opaque Config.maxSegments : SegmentLimit

/-- This machine's parameters: the OPEN ones opaque, and `P_CRC_REFLECTED = false` (D7, log entry 2). -/
def Config.params : Params where
  maxInstances := Config.maxInstancesLessOne.val + 1
  maxPayload := Config.maxPayload.val
  txMaxPayload := Config.txMaxPayload.val
  maxSegments := Config.maxSegments
  crcReflected := false

/-- DESIGN CHOICE (log entry 5), safe: which tokens there are beside the one that always is, is OPEN. -/
opaque Config.isTokenCode : Nat → Bool

/-- This machine's `TOKEN` (R10, D24, I11): an OPEN type, of which nothing can be proved but that it has a member
(`none`; R87 gives every command a token) and that equality of its members is decidable. DESIGN CHOICE (log entry 5),
safe: at most countably many members, so that the state is plain data. -/
structure Token where
  code : Option { n : Nat // Config.isTokenCode n = true }
deriving DecidableEq, Repr, Inhabited

end Sys2Proof
end

