-- ==== Sys2Proof/Syntax.lean ====
section
/-!
DEFINITION. The commands of the block: the four rows of spec/opcode_table.json (`Instr`), the side-band operand
bundle (R87), the outcome of decoding (R86), a row of the opcode table (R85), the assembler form (R91) and the
pseudo-commands (R92). Meaning is given in Sys2Proof/Machine alone.
-/

namespace Sys2Proof

/-- The block's "instructions" (R2, R85), with the free fields of their command words (R84). Side-band operands
are not part of the word (R87): the machine holds them in State.Of.operands while the command executes. -/
inductive Instr where
  /-- CREATE: `P1` = word[15:8], `P2` = word[7:0] (R120). -/
  | create (p1 p2 : Byte)
  /-- CRC: `START` = word[15:0] (R107). -/
  | crc (start : U16)
  /-- FEED: `HANDLE` = word[23:16] (R160). -/
  | feed (h : Handle)
  /-- BUILD_SG: `HANDLE` = word[23:16] (R143). -/
  | buildSg (h : Handle)
deriving DecidableEq, Repr

/-- Why a word is `Illegal` (R86, R93); the status is ILLEGAL_COMMAND whatever the reason. -/
inductive Illegal where
  /-- RSV (bits 27..24) is not 0000. -/
  | reservedField
  /-- OP (bits 31..28) is 0x0 or 0x5..0xF. -/
  | opcode
  /-- HANDLE (bits 23..16) is not 0x00 under CREATE or CRC. -/
  | handleField
  /-- IMM16 (bits 15..0) is not 0x0000 under FEED or BUILD_SG. -/
  | immField
deriving DecidableEq, Repr

/-- `Cmd | Illegal`: what `decode` gives, for every word (R86). -/
inductive Decoded where
  | legal (i : Instr)
  | illegal (why : Illegal)
deriving DecidableEq, Repr

/-- A row of the opcode table (R85): a word `w` selects it when `w AND mask = pattern`. -/
structure OpcodeRow where
  mnemonic : String
  pattern : U32
  mask : U32
deriving DecidableEq, Repr

/-- The side-band operand bundle of a command (R87): "a command reads only the members it uses". The type `TOKEN` of the
caller's opaque value is an argument (R10, R80). -/
structure Bundle.Of (TOKEN : Type) where
  token : TOKEN
  data : List Byte
  segs : List (List Byte)
deriving DecidableEq, Repr

/-- This machine's bundles. -/
abbrev Bundle := Bundle.Of Token

/-- A bundle with nothing in it: the operands of a command whose host sends none. -/
def Bundle.empty {TOKEN : Type} [Inhabited TOKEN] : Bundle.Of TOKEN := { token := default, data := [], segs := [] }

/-- A command in assembler form (R91): the word's operands and the side-band operands together. -/
inductive AsmCommand.Of (TOKEN : Type) where
  /-- `CREATE <p1>, <p2>` -/
  | create (p1 p2 : Byte)
  /-- `CRC <start>, [<bytes>]` -/
  | crc (start : U16) (data : List Byte)
  /-- `FEED <h>, <token>, [<bytes>]` -/
  | feed (h : Handle) (token : TOKEN) (data : List Byte)
  /-- `BUILD_SG <h>, <segments>` -/
  | buildSg (h : Handle) (segs : List (List Byte))
deriving DecidableEq, Repr

/-- This machine's commands in assembler form. -/
abbrev AsmCommand := AsmCommand.Of Token

/-- The pseudo-commands (R92), expanded by Sys2Proof/Machine/Pseudo.lean. -/
inductive PseudoCommand.Of (TOKEN : Type) where
  /-- `FEED_BYTE h, tok, b` -/
  | feedByte (h : Handle) (token : TOKEN) (b : Byte)
  /-- `FEED_CHUNKS h, tok, D1, ..., Dk` -/
  | feedChunks (h : Handle) (token : TOKEN) (chunks : List (List Byte))
  /-- `BUILD_SINGLE h, P` -/
  | buildSingle (h : Handle) (payload : List Byte)
  /-- `CRC_CHAIN s, D1, D2` -/
  | crcChain (start : U16) (d1 d2 : List Byte)
deriving DecidableEq, Repr

/-- This machine's pseudo-commands. -/
abbrev PseudoCommand := PseudoCommand.Of Token

end Sys2Proof
end

