-- ==== Sys2Proof/WellFormed.lean ====
section
/-!
DEFINITION. Well-formedness. The fields of an instruction carry their widths in their types (P1, P2, HANDLE 8 bits,
START 16 bits), so EVERY term of `Instr` is the meaning of some legal command word and needs no check; the
operand bundle may hold byte sequences of any length (R58). What can be ill-formed is a parameter set: `Params.wf`
is the ranges of 00_scope.md rule R10, one check for each bounded parameter.
-/

namespace Sys2Proof

/-- The ranges of R10: `1 ≤ P_MAX_INSTANCES ≤ 256`, `P_MAX_PAYLOAD ≤ 65535`, `P_TX_MAX_PAYLOAD ≤ 65535`.
`P_MAX_SEGMENTS` and `P_CRC_REFLECTED` have no bound. -/
def Params.wf (P : Params) : Bool :=
  decide (1 ≤ P.maxInstances) && decide (P.maxInstances ≤ 256)
    && decide (P.maxPayload ≤ 65535) && decide (P.txMaxPayload ≤ 65535)

end Sys2Proof
end

