-- ==== Sys2Proof/Decode.lean ====
section
/-!
DEFINITION. The command word's encoding: its fields (R84), the opcode table (R85), the total decoder (R86), and
then the encoder and the assembler form (R91), written from the same tables. A command word is one 32-bit
value and has no byte order (R56).
-/

namespace Sys2Proof

/-- OP, bits [31:28] (R84). -/
def opField (w : U32) : BitVec 4 := w.extractLsb' 28 4

/-- RSV, bits [27:24], "must be 0000" (R84). -/
def rsvField (w : U32) : BitVec 4 := w.extractLsb' 24 4

/-- HANDLE, bits [23:16] (R84). -/
def handleField (w : U32) : Handle := w.extractLsb' 16 8

/-- IMM16, bits [15:0] (R84). -/
def immField (w : U32) : U16 := w.extractLsb' 0 16

/-- P1, bits [15:8], the high byte of IMM16 (R84). -/
def p1Field (w : U32) : Byte := w.extractLsb' 8 8

/-- P2, bits [7:0], the low byte of IMM16 (R84). -/
def p2Field (w : U32) : Byte := w.extractLsb' 0 8

/-- The opcodes of R85. -/
def opCreate : BitVec 4 := 0x1#4
def opCrc : BitVec 4 := 0x2#4
def opFeed : BitVec 4 := 0x3#4
def opBuildSg : BitVec 4 := 0x4#4

/-- `decode` of R86, total on every 32-bit word: RSV first, then the opcode, then the field the opcode leaves
unused. Each way to be `Illegal` has its name. -/
def decode (w : U32) : Decoded :=
  if rsvField w ≠ 0#4 then .illegal .reservedField
  else if opField w = opCreate then
    if handleField w ≠ 0#8 then .illegal .handleField else .legal (.create (p1Field w) (p2Field w))
  else if opField w = opCrc then
    if handleField w ≠ 0#8 then .illegal .handleField else .legal (.crc (immField w))
  else if opField w = opFeed then
    if immField w ≠ 0#16 then .illegal .immField else .legal (.feed (handleField w))
  else if opField w = opBuildSg then
    if immField w ≠ 0#16 then .illegal .immField else .legal (.buildSg (handleField w))
  else .illegal .opcode

/-- A command word from its fields, RSV zero (R84). -/
def commandWord (op : BitVec 4) (h : Handle) (imm : U16) : U32 :=
  (op.zeroExtend 32 <<< 28) ||| (h.zeroExtend 32 <<< 16) ||| imm.zeroExtend 32

/-- The command word of an instruction: each operand in its field, every unused field zero (R84, R85). -/
def encode : Instr → U32
  | .create p1 p2 => commandWord opCreate 0#8 ((p1.zeroExtend 16 <<< 8) ||| p2.zeroExtend 16)
  | .crc start => commandWord opCrc 0#8 start
  | .feed h => commandWord opFeed h 0#16
  | .buildSg h => commandWord opBuildSg h 0#16

/-- The opcode table of R85, `match` and `mask` as printed. -/
def opcodeTable : List OpcodeRow :=
  [ { mnemonic := "CREATE", pattern := 0x10000000#32, mask := 0xFFFF0000#32 },
    { mnemonic := "CRC", pattern := 0x20000000#32, mask := 0xFFFF0000#32 },
    { mnemonic := "FEED", pattern := 0x30000000#32, mask := 0xFF00FFFF#32 },
    { mnemonic := "BUILD_SG", pattern := 0x40000000#32, mask := 0xFF00FFFF#32 } ]

/-- "A word `w` selects a row when `(w & mask) = match`" (R85). -/
def OpcodeRow.selects (r : OpcodeRow) (w : U32) : Bool := w &&& r.mask == r.pattern

/-- The mnemonic of an instruction, as the opcode table has it. -/
def Instr.mnemonic : Instr → String
  | .create _ _ => "CREATE"
  | .crc _ => "CRC"
  | .feed _ => "FEED"
  | .buildSg _ => "BUILD_SG"

variable {TOKEN : Type}

/-- The instruction of a command in assembler form. -/
def AsmCommand.Of.instr : AsmCommand.Of TOKEN → Instr
  | .create p1 p2 => .create p1 p2
  | .crc start _ => .crc start
  | .feed h _ _ => .feed h
  | .buildSg h _ => .buildSg h

/-- The side-band bundle of a command in assembler form: the members it does not name are empty. -/
def AsmCommand.Of.bundle [Inhabited TOKEN] : AsmCommand.Of TOKEN → Bundle.Of TOKEN
  | .create _ _ => Bundle.empty
  | .crc _ data => { token := default, data := data, segs := [] }
  | .feed _ token data => { token := token, data := data, segs := [] }
  | .buildSg _ segs => { token := default, data := [], segs := segs }

/-- "The command word of each is given by rules R84, R85 with the named operands in their fields" (R91). -/
def AsmCommand.Of.word (c : AsmCommand.Of TOKEN) : U32 := encode c.instr

/-- The command word whose low `nbits` bits are those of `w`, every bit above them zero. -/
def tableWord (nbits w : Nat) : U32 := BitVec.ofNat 32 (w % 2 ^ nbits)

/-- What the decoder reads from the word `w` of an opcode-table row of `nbits` bits (bit 0 the least significant, as
the table numbers them); none where it is `Illegal`, and none for more bits than a command word has (R94). -/
def decodeTableWord (nbits w : Nat) : Option Instr :=
  if 32 < nbits then none
  else match decode (tableWord nbits w) with
    | .legal i => some i
    | .illegal _ => none

end Sys2Proof
end

