-- ==== Sys2Proof/Machine/State.lean ====
section
/-!
DEFINITION. The state of the block (10_state.md), as plain data: the global registers, one record per context slot,
and the command port towards the host. Also what a command returns (status, result, events: R80-R83, R88, R89),
the reasons a step can stop, and the state after reset (R37, R230).
-/

namespace Sys2Proof.Machine

/-- The header staging area `hdr[0..7]` (R28); `bK` is `hdr[K]`. -/
structure Header where
  b0 : Byte
  b1 : Byte
  b2 : Byte
  b3 : Byte
  b4 : Byte
  b5 : Byte
  b6 : Byte
  b7 : Byte
deriving DecidableEq, Repr

/-- The parse state `st` (R26, R90), in the order of its codes 0..8. -/
inductive ParseState where
  | seekP1 | seekP2 | lenHi | lenLo | dcrcHi | dcrcLo | hcrcHi | hcrcLo | data
deriving DecidableEq, Repr

/-- A framing context `ctx[h]`: exactly the fields of R23. -/
structure Context where
  /-- Configured preamble_1 (R25). -/
  p1 : Byte
  /-- Configured preamble_2 (R25). -/
  p2 : Byte
  /-- Parse state (R26). -/
  st : ParseState
  /-- Accumulated length (R27). -/
  len : U16
  /-- Header staging area (R28). -/
  hdr : Header
  /-- Expected header CRC as received (R29). -/
  hcrcExp : U16
  /-- Receive buffer contents collected so far (R30). -/
  rx : List Byte
  /-- Accumulated data CRC over `rx` (R31). -/
  rxCrc : U16
  /-- Hidden bit: an abandoned receive buffer is held (R32). -/
  rxHeld : Bool
deriving DecidableEq, Repr

/-- The event kinds of R81. -/
inductive EventKind where
  | preambleDetected | headerCrcError | packetLengthError | dataCrcError | validData
deriving DecidableEq, Repr

/-- The event record of R80; `metadata` is its `meta`. -/
structure Event.Of (TOKEN : Type) where
  handle : Handle
  kind : EventKind
  token : TOKEN
  metadata : Option Header
  payload : Option (List Byte)
deriving DecidableEq, Repr

/-- This machine's events. -/
abbrev Event := Event.Of Token

/-- The status codes of R88. -/
inductive Status where
  | ok | invalidInstance | invalidArgument | capacityExceeded | allocationFailure | illegalCommand
deriving DecidableEq, Repr

/-- The results of R89, one constructor per command. -/
inductive Result.Of (TOKEN : Type) where
  /-- CREATE: the new handle. -/
  | handle (h : Handle)
  /-- CRC: the CRC value. -/
  | crc (c : U16)
  /-- FEED: the event list, possibly empty, in emission order (R83). -/
  | events (es : List (Event.Of TOKEN))
  /-- BUILD_SG: the frame. -/
  | frame (bytes : List Byte)
deriving DecidableEq, Repr

/-- This machine's results. -/
abbrev Result := Result.Of Token

/-- What a command returns: its status and its optional result (R8, R89). The event list is FEED's result. -/
structure Response.Of (TOKEN : Type) where
  status : Status
  result : Option (Result.Of TOKEN)
deriving DecidableEq, Repr

/-- This machine's responses. -/
abbrev Response := Response.Of Token

/-- What the host sends (R234): a command word with its bundle, or a hardware reset, which falls between commands
(R231). -/
inductive HostInput.Of (TOKEN : Type) where
  | command (word : U32) (operands : Bundle.Of TOKEN)
  | reset
deriving DecidableEq, Repr

/-- This machine's inputs. -/
abbrev HostInput := HostInput.Of Token

/-- The state of the block, for any type `TOKEN` of tokens: the parameter that is a type is an argument (R10). -/
structure State.Of (TOKEN : Type) where
  /-- The implementation parameters (R10); no step changes them. The model's own field (log entry 1). -/
  params : Params
  /-- `n_created`: the handles 0..n_created-1 are valid (R22). -/
  nCreated : Nat
  /-- `ctx[0..P_MAX_INSTANCES-1]`, slot `h` at position `h` (R22). -/
  slots : List Context
  /-- The host's inputs not yet taken, in issue order (R61). The model's own field (log entry 4). -/
  pending : List (HostInput.Of TOKEN)
  /-- The operand bundle of the command being executed (R87). The model's own field (log entry 4). -/
  operands : Bundle.Of TOKEN
  /-- What the commands have returned so far, oldest first (R244). The model's own field (log entry 4). -/
  responses : List (Response.Of TOKEN)
deriving DecidableEq, Repr

/-- The machine: the state with this machine's `Token`. -/
abbrev State := State.Of Token

/-- The block has no fault mechanism: "No item of this block is treated as `fault`" (93_implementation_defined.md,
R200), so no constructor, and no step faults. -/
inductive Fault where
deriving DecidableEq, Repr

/-- Why a step could give no meaning. -/
inductive Refusal where
  /-- Raised by an arm of exec for a command that has no meaning yet; safe. No arm raises it: all four have one. -/
  | notModelled (mnemonic : String)
deriving DecidableEq, Repr

/-- A slot no CREATE has initialised. Its fields are "unspecified" (R37) and unobservable (R230). DESIGN CHOICE
(log entry 3), unsafe: all zero, `st` SEEK_P1. -/
def Context.uncreated : Context where
  p1 := 0x00#8
  p2 := 0x00#8
  st := .seekP1
  len := 0x0000#16
  hdr := ⟨0#8, 0#8, 0#8, 0#8, 0#8, 0#8, 0#8, 0#8⟩
  hcrcExp := 0x0000#16
  rx := []
  rxCrc := 0x0000#16
  rxHeld := false

/-- The machine with parameters `P` and `TOKEN` right after reset: no context created (R37, R230); the port empty (log entry 4). -/
def State.resetWith {TOKEN : Type} [Inhabited TOKEN] (P : Params) : State.Of TOKEN where
  params := P
  nCreated := 0
  slots := List.replicate P.maxInstances Context.uncreated
  pending := []
  operands := Bundle.empty
  responses := []

/-- The machine right after reset, with this machine's parameters. -/
def State.reset : State := State.resetWith Config.params

end Sys2Proof.Machine
end

