-- ==== Sys2Proof/Machine/Ops.lean ====
section
/-!
DEFINITION. The named operations over the state: bytes and 16-bit values (R13, R54), the header, a context slot, the
port (taking a command, answering it), a failing command and the hardware reset. The block has no exceptions and no
return from one (R200, R207); what stands in their place is a command that completes with a failing status
(`failWith`, R201, R203) and an error event (`plainEvent`, R202).
-/

namespace Sys2Proof.Machine

variable {TOKEN : Type}

/-- Two bytes as a 16-bit value, the first the high byte: `(zext_16(hi) << 8) | zext_16(lo)` (R33, R54). -/
def join16 (hi lo : Byte) : U16 := (hi.zeroExtend 16 <<< 8) ||| lo.zeroExtend 16

/-- `be16(v)`: the two bytes of a 16-bit value, most significant first (R13). -/
def be16 (v : U16) : List Byte := [v.extractLsb' 8 8, v.extractLsb' 0 8]

/-- The header as its eight bytes, `hdr[0..8]`. -/
def Header.toList (m : Header) : List Byte := [m.b0, m.b1, m.b2, m.b3, m.b4, m.b5, m.b6, m.b7]

/-- The header-forming bytes, `hdr[0..6]`: the bytes the header CRC covers (R16, R73). -/
def Header.forming (m : Header) : List Byte := [m.b0, m.b1, m.b2, m.b3, m.b4, m.b5]

/-- `ctx[h]` of R22. Every slot below P_MAX_INSTANCES exists (`State.Of.Inv`); past the end, where no command reads,
the uncreated value stands in. -/
def State.Of.ctx (s : State.Of TOKEN) (h : Nat) : Context := s.slots.getD h Context.uncreated

/-- `ctx[h] <- c`. -/
def State.Of.setCtx (s : State.Of TOKEN) (h : Nat) (c : Context) : State.Of TOKEN := { s with slots := s.slots.set h c }

/-- The handle check `valid(h) := h < n_created` (R121). -/
def State.Of.validHandle (s : State.Of TOKEN) (h : Handle) : Bool := decide (h.toNat < s.nCreated)

/-- Return a response to the host (R89, R244). -/
def State.Of.respond (s : State.Of TOKEN) (r : Response.Of TOKEN) : State.Of TOKEN := { s with responses := s.responses ++ [r] }

/-- `return OK(result)`: the command ends with status OK and its result (R13, R89). -/
def completeOk (s : State.Of TOKEN) (r : Result.Of TOKEN) : Host.Outcome (State.Of TOKEN) Fault Refusal :=
  .next (s.respond { status := .ok, result := some r })

/-- A failing command: it completes with its status, "no result" (R89), and changes nothing else (R203). -/
def failWith (s : State.Of TOKEN) (status : Status) : Host.Outcome (State.Of TOKEN) Fault Refusal :=
  .next (s.respond { status := status, result := none })

/-- The command processor takes the next command: the bundle becomes the operands, `rest` stays pending (R61, R87). -/
def State.Of.accept (s : State.Of TOKEN) (operands : Bundle.Of TOKEN) (rest : List (HostInput.Of TOKEN)) : State.Of TOKEN :=
  { s with operands := operands, pending := rest }

/-- A word that decodes to `Illegal` completes with ILLEGAL_COMMAND, "no result, no events and no state change" (R86);
its bundle is not read. -/
def rejectIllegal (s : State.Of TOKEN) (rest : List (HostInput.Of TOKEN)) : Host.Outcome (State.Of TOKEN) Fault Refusal :=
  failWith { s with pending := rest } .illegalCommand

/-- Hardware reset (R230): `n_created <- 0`, every slot uncreated (its unspecified fields: log entry 3). It emits no
event and returns no status (R231), and the parameters are fixed before it (R233). -/
def State.Of.hardwareReset (s : State.Of TOKEN) (rest : List (HostInput.Of TOKEN)) : State.Of TOKEN :=
  { s with
    nCreated := 0
    slots := List.replicate s.params.maxInstances Context.uncreated
    pending := rest }

/-- An event of a kind that carries neither metadata nor payload (R82). -/
def plainEvent (h : Handle) (tok : TOKEN) (kind : EventKind) : Event.Of TOKEN :=
  { handle := h, kind := kind, token := tok, metadata := none, payload := none }

/-- A VALID_DATA event: the 8 staged header bytes and the completed payload, by value (R68, R82). -/
def validDataEvent (h : Handle) (tok : TOKEN) (hdr : Header) (payload : List Byte) : Event.Of TOKEN :=
  { handle := h, kind := .validData, token := tok, metadata := some hdr, payload := some payload }

/-- The ordered event list of a response (R8, R80): FEED's result, and empty for every other command and for every
failing status (R83, R89). -/
def Response.Of.events (r : Response.Of TOKEN) : List (Event.Of TOKEN) :=
  match r.result with
  | some (.events es) => es
  | _ => []

/-- A command in assembler form as the host sends it (R91, R234). -/
def asmInput [Inhabited TOKEN] (c : AsmCommand.Of TOKEN) : HostInput.Of TOKEN := .command c.word c.bundle

end Sys2Proof.Machine
end

