-- ==== Sys2Proof/Machine/Operands.lean ====
section
/-!
DEFINITION. The side-band operands (R87): which member of the bundle a command reads, and the quantities computed
from an operand before any effect.
-/

namespace Sys2Proof.Machine

variable {TOKEN : Type}

/-- `data`: the byte span of CRC, the chunk of received bytes of FEED (R87). -/
def State.Of.dataOperand (s : State.Of TOKEN) : List Byte := s.operands.data

/-- `token`: FEED's caller-supplied source token (R87). -/
def State.Of.tokenOperand (s : State.Of TOKEN) : TOKEN := s.operands.token

/-- `segs`: BUILD_SG's ordered list of payload segments (R87). -/
def State.Of.segsOperand (s : State.Of TOKEN) : List (List Byte) := s.operands.segs

/-- `total <- Σ_k |segs[k]|`, "exact natural sum, no wrap" (R143). -/
def totalLength (segs : List (List Byte)) : Nat := (segs.map List.length).sum

/-- The payload a segment list carries, `segs[0] ++ ... ++ segs[n-1]` (R143). -/
def joinSegments (segs : List (List Byte)) : List Byte := segs.flatten

/-- `P_MAX_SEGMENTS != UNBOUNDED and |segs| > P_MAX_SEGMENTS` (R143, R145). -/
def segmentsExceed (limit : SegmentLimit) (n : Nat) : Bool :=
  match limit with
  | .unbounded => false
  | .atMost m => decide (m < n)

end Sys2Proof.Machine
end

