-- ==== Sys2Proof/Machine/Assembler.lean ====
section
/-!
DEFINITION. The frame assembler, scatter-gather variant (42_assembler.md): the header generator all build variants
share (R140, R142), the data CRC over segments (R141) and the BUILD_SG command. The output staging store of R51 lives
only within the command and is returned whole as its result.
-/

namespace Sys2Proof.Machine

variable {TOKEN : Type}

/-- Bytes 0..5 of a frame: the preambles, the length and the data CRC (R140). -/
def headerForming (p1 p2 : Byte) (len dataCrc : U16) : List Byte := [p1, p2] ++ be16 len ++ be16 dataCrc

/-- `hdr_gen(p1, p2, L, d)`: the 8-byte header, its last two bytes the CRC over the six before them (R140). -/
def headerGen (P : Params) (p1 p2 : Byte) (len dataCrc : U16) : List Byte :=
  headerForming p1 p2 len dataCrc ++ be16 (crc16 P (headerForming p1 p2 len dataCrc) 0x0000#16)

/-- The data CRC over segments, chained from one segment to the next (R141). -/
def segmentsCrc (P : Params) (segs : List (List Byte)) : U16 :=
  segs.foldl (fun d seg => crc16 P seg d) 0x0000#16

/-- The frame of a context for a segment list: header, then the segments in order (R143). -/
def buildFrame (P : Params) (c : Context) (segs : List (List Byte)) : List Byte :=
  headerGen P c.p1 c.p2 (BitVec.ofNat 16 (totalLength segs)) (segmentsCrc P segs) ++ joinSegments segs

/-- BUILD_SG (R143): the checks in the order of R148 (handle R147, segment count R145, 16-bit overflow R144, capacity
R146), the first that fails giving the status; then the frame. It writes no state (R149). -/
def execBuildSg (h : Handle) (s : State.Of TOKEN) : Host.Outcome (State.Of TOKEN) Fault Refusal :=
  if s.validHandle h = false then failWith s .invalidArgument
  else if segmentsExceed s.params.maxSegments s.segsOperand.length then failWith s .invalidArgument
  else if 65535 < totalLength s.segsOperand then failWith s .invalidArgument
  else if s.params.txMaxPayload < totalLength s.segsOperand then failWith s .allocationFailure
  else completeOk s (.frame (buildFrame s.params (s.ctx h.toNat) s.segsOperand))

end Sys2Proof.Machine
end

