-- ==== Sys2Proof/Machine/Receiver.lean ====
section
/-!
DEFINITION. The frame sync and header parser FSM, the payload length validator and the payload collector
(43_receiver.md): one definition per state of the FSM, the per-byte step over them (R162) and the FEED command (R160).
A step gives the context after the byte and the event it emits, or none.
-/

namespace Sys2Proof.Machine

variable {TOKEN : Type}

/-- `dcrc_exp`: the big-endian value of the staged data-CRC bytes (R33). -/
def Context.dcrcExp (c : Context) : U16 := join16 c.hdr.b4 c.hdr.b5

/-- SEEK_P1 (R163): preamble_1 leads to SEEK_P2, anything else stays. -/
def rxSeekP1 (c : Context) (b : Byte) : Context × Option (Event.Of TOKEN) :=
  if b = c.p1 then ({ c with st := .seekP2 }, none) else (c, none)

/-- SEEK_P2 (R164): preamble_2 is tested first and is detected, staging bytes 0 and 1; preamble_1 stays; anything else
returns to SEEK_P1. -/
def rxSeekP2 (c : Context) (h : Handle) (tok : TOKEN) (b : Byte) : Context × Option (Event.Of TOKEN) :=
  if b = c.p2 then
    ({ c with hdr := { c.hdr with b0 := c.p1, b1 := c.p2 }, st := .lenHi },
      some (plainEvent h tok .preambleDetected))
  else if b = c.p1 then (c, none)
  else ({ c with st := .seekP1 }, none)

/-- LEN_HI (R165): the byte is the length's high byte, staged as byte 2. -/
def rxLenHi (c : Context) (b : Byte) : Context × Option (Event.Of TOKEN) :=
  ({ c with len := b.zeroExtend 16 <<< 8, hdr := { c.hdr with b2 := b }, st := .lenLo }, none)

/-- LEN_LO (R166): the byte is OR-ed into the length's low bits, staged as byte 3. -/
def rxLenLo (c : Context) (b : Byte) : Context × Option (Event.Of TOKEN) :=
  ({ c with len := c.len ||| b.zeroExtend 16, hdr := { c.hdr with b3 := b }, st := .dcrcHi }, none)

/-- DCRC_HI (R167): the byte is staged as byte 4. -/
def rxDcrcHi (c : Context) (b : Byte) : Context × Option (Event.Of TOKEN) :=
  ({ c with hdr := { c.hdr with b4 := b }, st := .dcrcLo }, none)

/-- DCRC_LO (R168): the byte is staged as byte 5. -/
def rxDcrcLo (c : Context) (b : Byte) : Context × Option (Event.Of TOKEN) :=
  ({ c with hdr := { c.hdr with b5 := b }, st := .hcrcHi }, none)

/-- HCRC_HI (R169): the byte is the expected header CRC's high byte, staged as byte 6. -/
def rxHcrcHi (c : Context) (b : Byte) : Context × Option (Event.Of TOKEN) :=
  ({ c with hcrcExp := b.zeroExtend 16 <<< 8, hdr := { c.hdr with b6 := b }, st := .hcrcLo }, none)

/-- What HCRC_LO does before its checks (R170): the low bits of the expected header CRC, staged as byte 7. -/
def stageHcrcLo (c : Context) (b : Byte) : Context :=
  { c with hcrcExp := c.hcrcExp ||| b.zeroExtend 16, hdr := { c.hdr with b7 := b } }

/-- Release on header match (R177): any retained buffer is freed, the collector starts empty. -/
def releaseBuffer (c : Context) : Context := { c with rxHeld := false, rx := [], rxCrc := 0x0000#16 }

/-- A zero-length frame completes at HCRC_LO (R178): its payload CRC is 0x0000. -/
def completeEmpty (c : Context) (h : Handle) (tok : TOKEN) : Context × Option (Event.Of TOKEN) :=
  if c.dcrcExp = 0x0000#16 then ({ c with st := .seekP1 }, some (validDataEvent h tok c.hdr []))
  else ({ c with st := .seekP1, rxHeld := true }, some (plainEvent h tok .dataCrcError))

/-- The header CRC has matched: release (R177), then the payload length validator (R176), then the zero-length case
(R178) or entry to DATA, in the order of R175. -/
def acceptHeader (P : Params) (c : Context) (h : Handle) (tok : TOKEN) : Context × Option (Event.Of TOKEN) :=
  let c := releaseBuffer c
  if P.maxPayload < c.len.toNat then ({ c with st := .seekP1 }, some (plainEvent h tok .packetLengthError))
  else if c.len = 0x0000#16 then completeEmpty c h tok
  else ({ c with st := .data }, none)

/-- HCRC_LO (R170): the header CRC is computed over the six staged bytes and compared; a mismatch (R171) emits
HEADER_CRC_ERROR and leaves the buffer as it is. -/
def rxHcrcLo (P : Params) (c : Context) (h : Handle) (tok : TOKEN) (b : Byte) : Context × Option (Event.Of TOKEN) :=
  let c := stageHcrcLo c b
  if crc16 P c.hdr.forming 0x0000#16 ≠ c.hcrcExp then
    ({ c with st := .seekP1 }, some (plainEvent h tok .headerCrcError))
  else acceptHeader P c h tok

/-- The payload is complete: a data CRC match (R180) delivers and frees it, a mismatch (R181) retains it. -/
def completePayload (c : Context) (h : Handle) (tok : TOKEN) : Context × Option (Event.Of TOKEN) :=
  if c.rxCrc = c.dcrcExp then
    ({ c with rx := [], rxCrc := 0x0000#16, st := .seekP1 }, some (validDataEvent h tok c.hdr c.rx))
  else ({ c with rxHeld := true, st := .seekP1 }, some (plainEvent h tok .dataCrcError))

/-- DATA (R179): the byte is appended and the data CRC updated; `len` bytes complete the payload. -/
def rxData (P : Params) (c : Context) (h : Handle) (tok : TOKEN) (b : Byte) : Context × Option (Event.Of TOKEN) :=
  let c := { c with rx := c.rx ++ [b], rxCrc := crcStep P c.rxCrc b }
  if c.rx.length = c.len.toNat then completePayload c h tok else (c, none)

/-- `rx_step` (R162): exactly one state's rule applies, to every byte value. -/
def rxStep (P : Params) (c : Context) (h : Handle) (tok : TOKEN) (b : Byte) : Context × Option (Event.Of TOKEN) :=
  match c.st with
  | .seekP1 => rxSeekP1 c b
  | .seekP2 => rxSeekP2 c h tok b
  | .lenHi => rxLenHi c b
  | .lenLo => rxLenLo c b
  | .dcrcHi => rxDcrcHi c b
  | .dcrcLo => rxDcrcLo c b
  | .hcrcHi => rxHcrcHi c b
  | .hcrcLo => rxHcrcLo P c h tok b
  | .data => rxData P c h tok b

/-- The bytes of a chunk in stream order (R62, R160): the context after the last, and the events in the order they are
emitted (R83). -/
def feedBytes (P : Params) (c : Context) (h : Handle) (tok : TOKEN) : List Byte → Context × List (Event.Of TOKEN)
  | [] => (c, [])
  | b :: bs =>
    let step := rxStep P c h tok b
    let rest := feedBytes P step.1 h tok bs
    (rest.1, step.2.toList ++ rest.2)

/-- FEED (R160): INVALID_INSTANCE on an invalid handle, with no byte consumed; else the FSM of the context takes every
byte of `data`, and the events are the result. -/
def execFeed (h : Handle) (s : State.Of TOKEN) : Host.Outcome (State.Of TOKEN) Fault Refusal :=
  if s.validHandle h = false then failWith s .invalidInstance
  else
    let fed := feedBytes s.params (s.ctx h.toNat) h s.tokenOperand s.dataOperand
    completeOk (s.setCtx h.toNat fed.1) (.events fed.2)

end Sys2Proof.Machine
end

