-- ==== Sys2Proof/Machine/Registry.lean ====
section
/-!
DEFINITION. Context configuration (41_context.md): the CREATE command.
-/

namespace Sys2Proof.Machine

variable {TOKEN : Type}

/-- The context CREATE writes (R120, R37): its preambles, SEEK_P1, everything else zero or empty. -/
def createdContext (p1 p2 : Byte) : Context where
  p1 := p1
  p2 := p2
  st := .seekP1
  len := 0x0000#16
  hdr := ⟨0x00#8, 0x00#8, 0x00#8, 0x00#8, 0x00#8, 0x00#8, 0x00#8, 0x00#8⟩
  hcrcExp := 0x0000#16
  rx := []
  rxCrc := 0x0000#16
  rxHeld := false

/-- The handle the next CREATE assigns, `n_created` (R123), as the 8-bit value it returns. -/
def State.Of.nextHandle (s : State.Of TOKEN) : Handle := BitVec.ofNat 8 s.nCreated

/-- CREATE (R120): CAPACITY_EXCEEDED when every slot is created, with no state change (R122); else slot `n_created` is
initialised, `n_created` counts it, and its handle is returned. Equal preambles are accepted (R124). -/
def execCreate (p1 p2 : Byte) (s : State.Of TOKEN) : Host.Outcome (State.Of TOKEN) Fault Refusal :=
  if s.nCreated = s.params.maxInstances then failWith s .capacityExceeded
  else
    completeOk
      { s.setCtx s.nCreated (createdContext p1 p2) with nCreated := s.nCreated + 1 }
      (.handle s.nextHandle)

end Sys2Proof.Machine
end

