-- ==== Sys2Proof/Machine/Dispatch.lean ====
section
/-!
DEFINITION. One arm per command: each calls its meaning.
-/

namespace Sys2Proof.Machine

def exec (i : Instr) (s : State) : Host.Outcome State Fault Refusal :=
  match i with
  | .create p1 p2 => Sys2Proof.Machine.execCreate p1 p2 s
  | .crc start => Sys2Proof.Machine.execCrc start s
  | .feed h => Sys2Proof.Machine.execFeed h s
  | .buildSg h => Sys2Proof.Machine.execBuildSg h s

end Sys2Proof.Machine
end

