-- ==== Sys2Proof/Machine/Step.lean ====
section
/-!
DEFINITION. One step of the command processor (R9, R61): it takes the host's next input and completes it. The block
fetches nothing from a memory (R52, R66): its next instruction is the command word at the head of the port.
-/

namespace Sys2Proof.Machine

/-- The next input is a hardware reset (R230), a command whose word decodes (executed with its bundle as operands) or
one whose word does not (R86). With nothing pending the processor waits: the state stays as it is (log entry 4). -/
def step (s : State) : Host.Outcome State Fault Refusal :=
  match s.pending with
  | [] => .next s
  | .reset :: rest => .next (s.hardwareReset rest)
  | .command w operands :: rest =>
    match decode w with
    | .legal i => exec i (s.accept operands rest)
    | .illegal _ => rejectIllegal s rest

/-- The host issues, before anything else pending, the command word whose low `nbits` bits are `w`'s, with an empty
bundle (log entry 6). -/
def State.withFetchWord (s : State) (nbits w : Nat) : State :=
  { s with pending := .command (tableWord nbits w) Bundle.empty :: s.pending }

end Sys2Proof.Machine
end

