-- ==== Sys2Proof/Machine/Flags.lean ====
section
/-!
DEFINITION. The block has no status flags or condition codes (R21): the outcome of a command is its status and its
events. Here are the numeric codes of the statuses (R88), the event kinds (R81) and the parse states (R90), and
the inverse readings, which say which codes are never returned or held.
-/

namespace Sys2Proof.Machine

/-- The status codes of R88. -/
def Status.code : Status → Byte
  | .ok => 0x00#8
  | .invalidInstance => 0x01#8
  | .invalidArgument => 0x02#8
  | .capacityExceeded => 0x03#8
  | .allocationFailure => 0x04#8
  | .illegalCommand => 0x05#8

/-- The event kind codes of R81, in a 3-bit kind field. -/
def EventKind.code : EventKind → BitVec 3
  | .preambleDetected => 0#3
  | .headerCrcError => 1#3
  | .packetLengthError => 2#3
  | .dataCrcError => 3#3
  | .validData => 4#3

/-- The state codes of R90, in the 4 bits of `st` (R23). -/
def ParseState.code : ParseState → BitVec 4
  | .seekP1 => 0#4
  | .seekP2 => 1#4
  | .lenHi => 2#4
  | .lenLo => 3#4
  | .dcrcHi => 4#4
  | .dcrcLo => 5#4
  | .hcrcHi => 6#4
  | .hcrcLo => 7#4
  | .data => 8#4

end Sys2Proof.Machine
end

