-- ==== Sys2Proof/Machine/Pseudo.lean ====
section
/-!
DEFINITION. The pseudo-commands (R92) as the host expands them: which command comes next, given what the commands of
the expansion so far have returned. CRC_CHAIN needs the first result (`c <- CRC s, D1` then `CRC c, D2`).
-/

namespace Sys2Proof.Machine

variable {TOKEN : Type}

/-- The next command of the expansion, or none when the expansion is complete (R92). -/
def pseudoNext : PseudoCommand.Of TOKEN → List (Response.Of TOKEN) → Option (AsmCommand.Of TOKEN)
  | .feedByte h tok b, [] => some (.feed h tok [b])
  | .feedByte _ _ _, _ :: _ => none
  | .feedChunks h tok chunks, done => (chunks[done.length]?).map (AsmCommand.Of.feed h tok)
  | .buildSingle h payload, [] => some (.buildSg h [payload])
  | .buildSingle _ _, _ :: _ => none
  | .crcChain start d1 _, [] => some (.crc start d1)
  | .crcChain _ _ d2, [r] =>
    match r.result with
    | some (.crc c) => some (.crc c d2)
    | _ => none
  | .crcChain _ _ _, _ :: _ :: _ => none

end Sys2Proof.Machine
end

