-- ==== Sys2Proof/Safety.lean ====
section
/-!
DEFINITION. The terms claims are stated in: the invariants (R35), a valid frame (R74), a safe step, what a run newly
emits (R244), and when two contexts or two states cannot be told apart (R37, R38).
-/

namespace Sys2Proof.Machine

/-- What holds of every created context between commands: R35, with the capacity of R23. Clause 1 of R35 (`st` is one of
nine values) is the type of `st`. Two clauses make the whole inductive and are the model's: LEN_LO's on `len`, the
mirror of clause 4, and the CRC of a retained `rx` outside DATA. -/
abbrev ContextInv (P : Params) (c : Context) : Prop :=
  (c.st ≠ .seekP1 ∧ c.st ≠ .seekP2 → c.hdr.b0 = c.p1 ∧ c.hdr.b1 = c.p2) ∧
  (c.st = .lenLo → c.len = join16 c.hdr.b2 0x00#8) ∧
  (c.st ∈ [.dcrcHi, .dcrcLo, .hcrcHi, .hcrcLo, .data] → c.len = join16 c.hdr.b2 c.hdr.b3) ∧
  (c.st = .hcrcLo → c.hcrcExp.extractLsb' 0 8 = 0x00#8 ∧ c.hcrcExp.extractLsb' 8 8 = c.hdr.b6) ∧
  (c.st = .data →
    1 ≤ c.len.toNat ∧ c.len.toNat ≤ P.maxPayload ∧ c.rx.length < c.len.toNat ∧
    c.hcrcExp = join16 c.hdr.b6 c.hdr.b7 ∧ c.hcrcExp = crc16 P c.hdr.forming 0x0000#16) ∧
  c.rx.length ≤ P.maxPayload ∧
  c.rxCrc = crc16 P c.rx 0x0000#16

/-- The invariant of the machine: legal parameters (R10), one slot for each possible handle and no more created than
exist (R22), and R35 for every created context. -/
abbrev State.Of.Inv (s : State) : Prop :=
  s.params.wf = true ∧
  s.slots.length = s.params.maxInstances ∧
  s.nCreated ≤ s.params.maxInstances ∧
  ∀ h < s.nCreated, ContextInv s.params (s.ctx h)

/-- The frame `F` is a valid frame for a context (R74). -/
abbrev ValidFrame (P : Params) (c : Context) (F : List Byte) : Prop :=
  8 ≤ F.length ∧
  F.getD 0 0 = c.p1 ∧
  F.getD 1 0 = c.p2 ∧
  F.length = 8 + (join16 (F.getD 2 0) (F.getD 3 0)).toNat ∧
  join16 (F.getD 6 0) (F.getD 7 0) = crc16 P (F.take 6) 0x0000#16 ∧
  join16 (F.getD 4 0) (F.getD 5 0) = crc16 P (F.drop 8) 0x0000#16

/-- A step is safe when the machine goes on: it neither faults nor refuses (R200, R214). -/
def StepSafe (s : State) : Prop := ∃ t, step s = .next t

/-- The responses a run from `s` to `t` has added (R244). -/
def newResponses (s t : State) : List Response := t.responses.drop s.responses.length

/-- The events a run from `s` to `t` has added, in order. -/
def newEvents (s t : State) : List Event := (newResponses s t).flatMap Response.Of.events

/-- The handle a successful CREATE returned, if the response is one (R89). -/
def Response.Of.newHandle (r : Response) : Option Handle :=
  match r.result with
  | some (.handle h) => some h
  | _ => none

/-- Two bundles that agree on the members a command reads (R87). -/
def SameOperands (a b : Bundle) : Instr → Prop
  | .create _ _ => True
  | .crc _ => a.data = b.data
  | .feed _ => a.token = b.token ∧ a.data = b.data
  | .buildSg _ => a.segs = b.segs

/-- The command is a FEED or a BUILD_SG on the handle `h`. -/
def onHandle (h : Handle) (c : AsmCommand) : Prop := c.instr = .feed h ∨ c.instr = .buildSg h

/-- `s` with the operands of a FEED at the port. -/
def State.Of.withFeed {TOKEN : Type} (s : State.Of TOKEN) (tok : TOKEN) (data : List Byte) : State.Of TOKEN :=
  { s with operands := { token := tok, data := data, segs := [] } }

/-- `s` with the operand of a BUILD_SG at the port. -/
def State.Of.withSegs {TOKEN : Type} [Inhabited TOKEN] (s : State.Of TOKEN) (segs : List (List Byte)) : State.Of TOKEN :=
  { s with operands := { token := default, data := [], segs := segs } }

/-- `s` with exactly the given commands pending at its port. -/
def State.Of.withCommands (s : State) (cs : List AsmCommand) : State := { s with pending := cs.map asmInput }

/-- An event whose token, of any type `A`, is carried to a type `B` by `f`. -/
def Event.Of.mapToken {A B : Type} (f : A → B) (e : Event.Of A) : Event.Of B :=
  { handle := e.handle, kind := e.kind, token := f e.token, metadata := e.metadata, payload := e.payload }

/-- An event with another token (R183). -/
def Event.Of.retoken (tok : Token) (e : Event) : Event := e.mapToken fun _ => tok

/-- A byte sequence with bit `k` of byte `i` inverted (R189). -/
def flipBit (F : List Byte) (i k : Nat) : List Byte := F.modify i (fun b => b ^^^ (1#8 <<< k))

/-- Nowhere in `data` do the bytes `p1`, `p2` follow one another (R188). -/
def NoPreamble (p1 p2 : Byte) (data : List Byte) : Prop :=
  ∀ i, ¬ (data[i]? = some p1 ∧ data[i + 1]? = some p2)

/-- How many header bytes the current frame has staged in each parse state (R28). -/
def stagedBytes : ParseState → Nat
  | .seekP1 | .seekP2 => 0
  | .lenHi => 2
  | .lenLo => 3
  | .dcrcHi => 4
  | .dcrcLo => 5
  | .hcrcHi => 6
  | .hcrcLo => 7
  | .data => 8

/-- Two contexts that agree on everything a later command can read (R38): the configuration, the parse state, and of the
other fields what the current frame has written. `rx_held` is never read (R32). -/
def SameLive (c d : Context) : Prop :=
  c.p1 = d.p1 ∧ c.p2 = d.p2 ∧ c.st = d.st ∧
  c.hdr.toList.take (stagedBytes c.st) = d.hdr.toList.take (stagedBytes c.st) ∧
  (3 ≤ stagedBytes c.st → c.len = d.len) ∧
  (c.st = .hcrcLo → c.hcrcExp = d.hcrcExp) ∧
  (c.st = .data → c.rx = d.rx ∧ c.rxCrc = d.rxCrc)

/-- Two states that agree on everything but the fields of uncreated slots (R37, R230). -/
def SameCreated (s t : State) : Prop :=
  s.params = t.params ∧ s.nCreated = t.nCreated ∧ s.pending = t.pending ∧ s.operands = t.operands ∧
  s.responses = t.responses ∧ s.slots.length = t.slots.length ∧ ∀ h < s.nCreated, s.ctx h = t.ctx h

end Sys2Proof.Machine
end

