-- ==== Sys2Proof/Certificates/Slice0/Obligations.lean ====
section
/-!
DEFINITION. The statements for the provers. Each docstring names the rule or section of spec/ it formalises; what is
the spec's own derivation ([derived: ...]) or the model's choice is said there.
-/

open Sys2Proof Sys2Proof.Machine

/- ==== Encodings (30_encoding.md) ==== -/

/-- 30_encoding.md section 3: decoding the command word of an instruction gives the instruction back, every operand at
every value its field admits. Every term of `Instr` is well-formed (Sys2Proof/WellFormed.lean). -/
def Obligations.DecodeOfEncodeIsIdentity : Prop := ∀ i : Instr, decode (encode i) = .legal i

/-- 30_encoding.md section 3: each legal word has one meaning, and it is the word of that meaning: no bit is dropped. -/
def Obligations.LegalWordIsEncodingOfItsMeaning : Prop :=
  ∀ (w : U32) (i : Instr), decode w = .legal i → w = encode i

/-- R85: a word selects at most one row of the opcode table, decodes exactly when it selects one, and then to the
instruction of that row, the bits outside the mask being its operands. -/
def Obligations.DecoderFollowsOpcodeTable : Prop :=
  (∀ (w : U32) (i : Instr),
    decode w = .legal i ↔
      ∃ r ∈ opcodeTable, r.selects w = true ∧ i.mnemonic = r.mnemonic ∧
        encode i &&& ~~~r.mask = w &&& ~~~r.mask) ∧
  (∀ w : U32, ∀ r ∈ opcodeTable, ∀ q ∈ opcodeTable, r.selects w = true → q.selects w = true → r = q)

/-- R93: the reserved space. Opcodes 0x0 and 0x5-0xF, a nonzero RSV, a nonzero HANDLE under CREATE or CRC and a nonzero
IMM16 under FEED or BUILD_SG are illegal, nothing else is, and an illegal word completes with ILLEGAL_COMMAND, no
result, no events and no state change (R86). -/
def Obligations.IllegalWordsCompleteWithIllegalCommand : Prop :=
  (∀ w : U32,
    (∃ why, decode w = .illegal why) ↔
      opField w = 0x0#4 ∨ 0x5#4 ≤ opField w ∨ rsvField w ≠ 0#4 ∨
      ((opField w = 0x1#4 ∨ opField w = 0x2#4) ∧ handleField w ≠ 0x00#8) ∨
      ((opField w = 0x3#4 ∨ opField w = 0x4#4) ∧ immField w ≠ 0x0000#16)) ∧
  (∀ (s : State) (w : U32) (ops : Bundle) (rest : List HostInput) (why : Illegal),
    s.pending = .command w ops :: rest → decode w = .illegal why →
      step s = .next { s with
        pending := rest
        responses := s.responses ++ [{ status := .illegalCommand, result := none }] })

/-- A sanity check on words of 95_test_vectors.md L2.1: DEC1, DEC3, DEC6, DEC7 and the illegal DEC8 and DEC13. -/
def Obligations.SpecWordsDecode : Prop :=
  decode 0x1000AA55#32 = .legal (.create 0xAA#8 0x55#8) ∧
  decode 0x2000FFFF#32 = .legal (.crc 0xFFFF#16) ∧
  decode 0x30FF0000#32 = .legal (.feed 255#8) ∧
  decode 0x40010000#32 = .legal (.buildSg 1#8) ∧
  decode 0x00000000#32 = .illegal .opcode ∧
  decode 0x10010000#32 = .illegal .handleField

/-- R90, and the codes of R88 and R81: the numeric codes, that no other code occurs, and that they tell statuses, kinds and
states apart. -/
def Obligations.CodesAreAsTabulated : Prop :=
  Status.ok.code = 0x00#8 ∧ Status.invalidInstance.code = 0x01#8 ∧ Status.invalidArgument.code = 0x02#8 ∧
  Status.capacityExceeded.code = 0x03#8 ∧ Status.allocationFailure.code = 0x04#8 ∧
  Status.illegalCommand.code = 0x05#8 ∧
  EventKind.preambleDetected.code = 0#3 ∧ EventKind.headerCrcError.code = 1#3 ∧
  EventKind.packetLengthError.code = 2#3 ∧ EventKind.dataCrcError.code = 3#3 ∧ EventKind.validData.code = 4#3 ∧
  ParseState.seekP1.code = 0#4 ∧ ParseState.seekP2.code = 1#4 ∧ ParseState.lenHi.code = 2#4 ∧
  ParseState.lenLo.code = 3#4 ∧ ParseState.dcrcHi.code = 4#4 ∧ ParseState.dcrcLo.code = 5#4 ∧
  ParseState.hcrcHi.code = 6#4 ∧ ParseState.hcrcLo.code = 7#4 ∧ ParseState.data.code = 8#4 ∧
  (∀ st : Status, st.code ≤ 0x05#8) ∧ (∀ k : EventKind, k.code ≤ 4#3) ∧ (∀ st : ParseState, st.code ≤ 8#4) ∧
  Function.Injective Status.code ∧ Function.Injective EventKind.code ∧ Function.Injective ParseState.code

/-- R92: the expansions of the pseudo-commands, each command of an expansion given what the ones before it returned, for
every type of tokens. That FEED_CHUNKS equals one FEED and CRC_CHAIN one CRC are statements of their own. -/
def Obligations.PseudoCommandsExpand : Prop := ∀ TOKEN : Type,
  (∀ h (tok : TOKEN) b, pseudoNext (.feedByte h tok b) [] = some (.feed h tok [b]) ∧
    ∀ r rs, pseudoNext (.feedByte h tok b) (r :: rs) = none) ∧
  (∀ h (tok : TOKEN) chunks done, pseudoNext (.feedChunks h tok chunks) done =
    (chunks[done.length]?).map (fun d => AsmCommand.Of.feed h tok d)) ∧
  (∀ h payload, pseudoNext (TOKEN := TOKEN) (.buildSingle h payload) [] = some (.buildSg h [payload]) ∧
    ∀ r rs, pseudoNext (TOKEN := TOKEN) (.buildSingle h payload) (r :: rs) = none) ∧
  (∀ start d1 d2, pseudoNext (TOKEN := TOKEN) (.crcChain start d1 d2) [] = some (.crc start d1) ∧
    ∀ c, pseudoNext (TOKEN := TOKEN) (.crcChain start d1 d2) [{ status := .ok, result := some (.crc c) }] =
      some (.crc c d2))

/- ==== The step (00_scope.md, 20_memory.md, 70_reset_and_hazards.md) ==== -/

/-- R61, R86: a step runs the decoded instruction. With a command at the head of the port whose word decodes to `i`, the
step is `exec i` on the state in which the command is taken and its bundle is the operands. -/
def Obligations.StepRunsDecodedInstruction : Prop :=
  ∀ (s : State) (w : U32) (ops : Bundle) (rest : List HostInput) (i : Instr),
    s.pending = .command w ops :: rest → decode w = .legal i →
      step s = exec i { s with pending := rest, operands := ops }

/-- The model's choice (log entry 4; R244 says only that the block never halts by itself): with nothing pending, a step
leaves the state as it is. -/
def Obligations.IdleStepChangesNothing : Prop := ∀ s : State, s.pending = [] → step s = .next s

/-- R200, R214: no step faults or refuses; every command of every word completes, in every state. -/
def Obligations.NoStepFaultsOrRefuses : Prop :=
  ∀ s : State, StepSafe s

/-- R89, with R8 and R61: a command is taken from the head of the port and returns exactly one response, whatever its word, its
operands and the state; nothing else is taken or returned. On OK the response holds the command's own result; on any other
status no result and an empty event list. -/
def Obligations.EachCommandReturnsOneResponse : Prop :=
  (∀ (s t : State) (w : U32) (ops : Bundle) (rest : List HostInput),
    s.pending = .command w ops :: rest → step s = .next t →
      t.pending = rest ∧ ∃ r, t.responses = s.responses ++ [r] ∧ (r.status ≠ .ok → r.result = none ∧ r.events = [])) ∧
  (∀ (s t : State) (i : Instr) (r : Response),
    exec i s = .next t → t.responses = s.responses ++ [r] → r.status = .ok →
      match i with
      | .create _ _ => r.result = some (.handle (BitVec.ofNat 8 s.nCreated))
      | .crc start => r.result = some (.crc (crc16 s.params s.operands.data start))
      | .feed _ => ∃ es, r.result = some (.events es)
      | .buildSg _ => ∃ F, r.result = some (.frame F) ∧ F.length = 8 + totalLength s.operands.segs)

/-- R10 ("none changes at run time"): no step changes a parameter. -/
def Obligations.ParametersNeverChange : Prop :=
  ∀ s t : State, step s = .next t → t.params = s.params

/-- R87: a command reads only the members of the operand bundle it uses (CREATE none; CRC `data`; FEED `token` and `data`;
BUILD_SG `segs`) and ignores the rest: with two bundles that agree on those it does the same. -/
def Obligations.CommandsReadOnlyTheirOperands : Prop :=
  ∀ (s : State) (i : Instr) (a b : Bundle), SameOperands a b i →
    ∃ t u, exec i { s with operands := a } = .next t ∧ exec i { s with operands := b } = .next u ∧
      t.responses = u.responses ∧ t.slots = u.slots ∧ t.nCreated = u.nCreated

/-- 70_reset_and_hazards.md section 1 (R230, with R231's "emits no event and returns no status"): a hardware reset sets
`n_created` to 0, returns nothing, and after it every FEED and BUILD_SG fails its handle check, so that no command can observe
what the slots hold: it returns the same whatever they are, and a CREATE writes its whole slot. (What they do hold is the
model's choice, log entry 3; that no run of commands observes it is UncreatedSlotsAreUnobservable.) THE MODEL'S CHOICE (log
entry 4), which no rule states, is what becomes of the port: the inputs queued behind the reset stay pending, the last operand
bundle stays, and the responses already returned stay. -/
def Obligations.HardwareResetUncreatesEveryContext : Prop :=
  (∀ (s : State) (rest : List HostInput), s.pending = .reset :: rest →
    ∃ t, step s = .next t ∧ t.nCreated = 0 ∧ t.pending = rest ∧ t.responses = s.responses ∧ t.params = s.params ∧
      t.operands = s.operands ∧
      ∀ h : Handle,
        exec (.feed h) t = .next (t.respond { status := .invalidInstance, result := none }) ∧
        exec (.buildSg h) t = .next (t.respond { status := .invalidArgument, result := none })) ∧
  (∀ (t : State) (slots : List Context) (i : Instr), t.nCreated = 0 → slots.length = t.slots.length →
    ∃ u v, exec i t = .next u ∧ exec i { t with slots := slots } = .next v ∧ u.responses = v.responses ∧
      u.nCreated = v.nCreated ∧ ∀ k < u.nCreated, u.ctx k = v.ctx k)

/-- 70_reset_and_hazards.md section 1 (R232, the spec's own derivation): right after reset, for any parameters and whatever
operands a command comes with (so that nothing rests on the bundle log entry 4 gives the port at reset), CRC works at once,
every FEED returns INVALID_INSTANCE and every BUILD_SG INVALID_ARGUMENT. That CREATE succeeds P_MAX_INSTANCES times is
HandlesAreSequentialFromReset. -/
def Obligations.BehaviourRightAfterReset : Prop :=
  ∀ (P : Params) (ops : Bundle) (s : State), s = { State.resetWith P with operands := ops } →
    s.nCreated = 0 ∧ s.slots.length = P.maxInstances ∧
    (∀ start, exec (.crc start) s =
      .next (s.respond { status := .ok, result := some (.crc (crc16 P ops.data start)) })) ∧
    (∀ h : Handle,
      exec (.feed h) s = .next (s.respond { status := .invalidInstance, result := none }) ∧
      exec (.buildSg h) s = .next (s.respond { status := .invalidArgument, result := none }))

/-- R201 and R204: a command that fails reports the status of the first check that fails, in the order decoding; then per
command capacity; handle; handle, segment count, 16-bit overflow, capacity. It has no result, and changes no state: the
command is taken and its failure returned, nothing else. -/
def Obligations.FailureStatusesHaveTheirCauses : Prop :=
  ∀ (s t : State) (w : U32) (ops : Bundle) (rest : List HostInput) (r : Response),
    s.pending = .command w ops :: rest → step s = .next t → t.responses = s.responses ++ [r] →
      (r.status.code = 0x05#8 ↔ ∃ why, decode w = .illegal why) ∧
      (r.status.code = 0x03#8 ↔
        (∃ p1 p2, decode w = .legal (.create p1 p2)) ∧ s.nCreated = s.params.maxInstances) ∧
      (r.status.code = 0x01#8 ↔ ∃ h, decode w = .legal (.feed h) ∧ s.nCreated ≤ h.toNat) ∧
      (r.status.code = 0x02#8 ↔ ∃ h, decode w = .legal (.buildSg h) ∧
        (s.nCreated ≤ h.toNat ∨ segmentsExceed s.params.maxSegments ops.segs.length = true ∨
          65535 < totalLength ops.segs)) ∧
      (r.status.code = 0x04#8 ↔ ∃ h, decode w = .legal (.buildSg h) ∧
        h.toNat < s.nCreated ∧ segmentsExceed s.params.maxSegments ops.segs.length = false ∧
          totalLength ops.segs ≤ 65535 ∧ s.params.txMaxPayload < totalLength ops.segs) ∧
      (r.status ≠ .ok → r.result = none ∧ r.events = [] ∧
        t.nCreated = s.nCreated ∧ t.slots = s.slots ∧ t.params = s.params)

/- ==== CRC (40_crc.md) ==== -/

/-- R107, and R103 (`CRC16([], s) = s` for every s): CRC completes in every state with OK and the CRC of `data` from START,
changing nothing else; its encoding; empty data returns START; and the rule's example, computed with `P_CRC_REFLECTED = false`. -/
def Obligations.CrcCommandReturnsCrcOfData : Prop :=
  (∀ (s : State) (start : U16),
    exec (.crc start) s = .next { s with
      responses := s.responses ++
        [{ status := .ok, result := some (.crc (s.operands.data.foldl (crcStep s.params) start)) }] }) ∧
  (∀ w : U32, (∃ start, decode w = .legal (.crc start)) ↔ w &&& 0xFFFF0000#32 = 0x20000000#32) ∧
  (∀ start : U16, decode (0x20000000#32 ||| start.zeroExtend 32) = .legal (.crc start)) ∧
  (∀ (P : Params) (start : U16), crc16 P [] start = start) ∧
  (∀ P : Params, P.crcReflected = false →
    crc16 P [0x31#8, 0x32#8] 0x0000#16 = 0x20B5#16 ∧
    crc16 P [0x33#8, 0x34#8, 0x35#8, 0x36#8, 0x37#8, 0x38#8, 0x39#8] 0x20B5#16 = 0x31C3#16 ∧
    crc16 P [0x31#8, 0x32#8, 0x33#8, 0x34#8, 0x35#8, 0x36#8, 0x37#8, 0x38#8, 0x39#8] 0x0000#16 = 0x31C3#16)

/-- R104: the chain property, for both bit orders; and at the command level (CRC_CHAIN of R92) a CRC of the tail started from
the result of a CRC of the head returns the CRC of the whole. -/
def Obligations.CrcChainsOverConcatenation : Prop :=
  (∀ (P : Params) (A B : List Byte) (start : U16), crc16 P (A ++ B) start = crc16 P B (crc16 P A start)) ∧
  (∀ (s t u v : State) (A B : List Byte) (start c : U16),
    exec (.crc start) (s.withFeed s.operands.token A) = .next t →
    t.responses = s.responses ++ [{ status := .ok, result := some (.crc c) }] →
    exec (.crc c) (t.withFeed t.operands.token B) = .next u →
    exec (.crc start) (s.withFeed s.operands.token (A ++ B)) = .next v →
      newResponses t u = newResponses s v)

/-- 40_crc.md section 1 (R105, the spec's own derivation): with `P_CRC_REFLECTED = false` the one-byte update is the
table-driven form over the printed 256-entry table, whose entries are `crc_step(0x0000, i)`. -/
def Obligations.CrcStepEqualsTableForm : Prop :=
  ∀ P : Params, P.crcReflected = false →
    (∀ (c : U16) (b : Byte), crcStep P c b = crcStepTable c b) ∧
    crcTable.length = 256 ∧
    ∀ i : Byte, crcTable[i.toNat]? = some (crcStep P 0x0000#16 i)

/-- 40_crc.md section 1 (R106, the spec's own derivation): for each byte the update is a bijection on the register. It holds of
both bit orders. -/
def Obligations.CrcStepIsBijective : Prop :=
  ∀ (P : Params) (b : Byte), Function.Bijective (fun c => crcStep P c b)

/-- 40_crc.md section 1 (R106, the spec's own derivation): CRC16 is linear over XOR on data of equal length, in both bit
orders. -/
def Obligations.CrcIsLinearOverXor : Prop :=
  ∀ (P : Params) (A B : List Byte) (x y : U16), A.length = B.length →
    crc16 P (List.zipWith (fun a b => a ^^^ b) A B) (x ^^^ y) = crc16 P A x ^^^ crc16 P B y

/-- 40_crc.md section 1 (R106, the spec's own derivation): zero bytes keep a zero register, for every length and in both bit
orders. -/
def Obligations.CrcOfZeroBytesKeepsZero : Prop :=
  ∀ (P : Params) (n : Nat), crc16 P (List.replicate n 0x00#8) 0x0000#16 = 0x0000#16

/-- 40_crc.md section 1 (R108, the spec's own derivation, for `P_CRC_REFLECTED = false`): data followed by its own big-endian
CRC has CRC 0. -/
def Obligations.CrcResidueIsZero : Prop :=
  ∀ (P : Params) (M : List Byte), P.crcReflected = false →
    crc16 P (M ++ be16 (crc16 P M 0x0000#16)) 0x0000#16 = 0x0000#16

/-- 40_crc.md section 1 (R109, the spec's own derivation): the reference check values, in both bit orders. -/
def Obligations.CrcReferenceCheckValues : Prop :=
  ∀ P : Params,
    let digits : List Byte := [0x31#8, 0x32#8, 0x33#8, 0x34#8, 0x35#8, 0x36#8, 0x37#8, 0x38#8, 0x39#8]
    (P.crcReflected = false → crc16 P digits 0x0000#16 = 0x31C3#16 ∧ crc16 P digits 0xFFFF#16 = 0x29B1#16) ∧
    (P.crcReflected = true → crc16 P digits 0x0000#16 = 0x2189#16) ∧
    crc16 P [] 0xBEEF#16 = 0xBEEF#16

/- ==== CREATE (41_context.md) ==== -/

/-- R120: CREATE, whole. When the table is full it returns CAPACITY_EXCEEDED and changes no state; else slot `n_created`
gets the preambles and the initial fields, `n_created` counts it and its handle is returned, everything else staying as
it is; its encoding; the last free slot; and the rule's example on a freshly reset block with P_MAX_INSTANCES = 2. -/
def Obligations.CreateInitialisesNextContext : Prop :=
  (∀ (s : State) (p1 p2 : Byte), s.nCreated = s.params.maxInstances →
    exec (.create p1 p2) s = .next (s.respond { status := .capacityExceeded, result := none })) ∧
  (∀ (s : State) (p1 p2 : Byte), s.Inv → s.nCreated ≠ s.params.maxInstances →
    ∃ t, exec (.create p1 p2) s = .next t ∧
      t.ctx s.nCreated =
        { p1 := p1, p2 := p2, st := .seekP1, len := 0x0000#16,
          hdr := ⟨0x00#8, 0x00#8, 0x00#8, 0x00#8, 0x00#8, 0x00#8, 0x00#8, 0x00#8⟩,
          hcrcExp := 0x0000#16, rx := [], rxCrc := 0x0000#16, rxHeld := false } ∧
      t.nCreated = s.nCreated + 1 ∧
      (∃ h : Handle, h.toNat = s.nCreated ∧
        t.responses = s.responses ++ [{ status := .ok, result := some (.handle h) }]) ∧
      (∀ k, k ≠ s.nCreated → t.ctx k = s.ctx k) ∧ t.slots.length = s.slots.length ∧
      t.params = s.params ∧ t.pending = s.pending ∧ t.operands = s.operands) ∧
  (∀ w : U32, (∃ p1 p2, decode w = .legal (.create p1 p2)) ↔ w &&& 0xFFFF0000#32 = 0x10000000#32) ∧
  (∀ (P : Params) (t : State), P.maxInstances = 2 →
    Sys2Proof.core.run 3 { State.resetWith P with
      pending := [.command 0x1000AA55#32 Bundle.empty, .command 0x10007E81#32 Bundle.empty,
        .command 0x10000102#32 Bundle.empty] } = .next t →
      t.nCreated = 2 ∧
      t.responses =
        [{ status := .ok, result := some (.handle 0#8) }, { status := .ok, result := some (.handle 1#8) },
          { status := .capacityExceeded, result := none }])

/-- R122: a CREATE on a full table returns CAPACITY_EXCEEDED and writes no field, and the table stays full under every
command, so every later CREATE fails too. -/
def Obligations.CapacityExhaustionIsPermanent : Prop :=
  ∀ s : State, s.nCreated = s.params.maxInstances →
    (∀ p1 p2, exec (.create p1 p2) s = .next (s.respond { status := .capacityExceeded, result := none })) ∧
    ∀ (w : U32) (ops : Bundle) (rest : List HostInput) (t : State),
      s.pending = .command w ops :: rest → step s = .next t → t.nCreated = t.params.maxInstances

/-- R123: handles are assigned sequentially from 0 and never reused. In any run of commands since a reset the k-th successful
CREATE returns handle k - 1 and `n_created` counts them; and from reset at most P_MAX_INSTANCES CREATEs all succeed. -/
def Obligations.HandlesAreSequentialFromReset : Prop :=
  (∀ (s t : State) (n : Nat), s.nCreated = 0 → HostInput.Of.reset ∉ s.pending → Sys2Proof.core.run n s = .next t →
    (newResponses s t).filterMap Response.Of.newHandle = (List.range t.nCreated).map (BitVec.ofNat 8)) ∧
  (∀ (P : Params) (preambles : List (Byte × Byte)), P.wf = true → preambles.length ≤ P.maxInstances →
    ∃ t, Sys2Proof.core.run preambles.length
        ((State.resetWith P).withCommands (preambles.map fun p => .create p.1 p.2)) = .next t ∧
      t.nCreated = preambles.length ∧
      t.responses = (List.range preambles.length).map
        (fun k => { status := .ok, result := some (.handle (BitVec.ofNat 8 k)) }))

/-- R124: equal preambles are accepted at creation, and the FSM tests preamble_2 first: in SEEK_P2 the byte X of a context
with p1 = p2 = X detects the preamble. -/
def Obligations.EqualPreamblesAreAccepted : Prop :=
  (∀ (s : State) (x : Byte), s.nCreated ≠ s.params.maxInstances →
    ∃ t h, exec (.create x x) s = .next t ∧
      t.responses = s.responses ++ [{ status := .ok, result := some (.handle h) }]) ∧
  (∀ (P : Params) (c : Context) (h : Handle) (tok : Token) (x : Byte),
    c.st = .seekP2 → c.p1 = x → c.p2 = x →
      (rxStep P c h tok x).1.st = .lenHi ∧
      (rxStep P c h tok x).2 = some (plainEvent h tok .preambleDetected))

/-- R25: the configuration registers are written only by the CREATE that creates their context, from P1 and P2, any
values, and never change afterwards, until a hardware reset. -/
def Obligations.PreamblesAreWrittenOnce : Prop :=
  (∀ (s t : State) (p1 p2 : Byte), s.Inv → s.nCreated ≠ s.params.maxInstances → exec (.create p1 p2) s = .next t →
    (t.ctx s.nCreated).p1 = p1 ∧ (t.ctx s.nCreated).p2 = p2) ∧
  (∀ (s t : State) (w : U32) (ops : Bundle) (rest : List HostInput) (h : Nat),
    s.Inv → s.pending = .command w ops :: rest → step s = .next t → h < s.nCreated →
      h < t.nCreated ∧ (t.ctx h).p1 = (s.ctx h).p1 ∧ (t.ctx h).p2 = (s.ctx h).p2)

/-- R121 and R147: a handle is valid iff it is below `n_created`. FEED and BUILD_SG check it before any other effect: on an
invalid handle they return INVALID_INSTANCE and INVALID_ARGUMENT, with no result and no side effect; on a valid one FEED
returns OK and BUILD_SG anything but a failed handle check. -/
def Obligations.HandleIsValidIffBelowCreatedCount : Prop :=
  ∀ (s : State) (h : Handle),
    (s.nCreated ≤ h.toNat →
      exec (.feed h) s = .next (s.respond { status := .invalidInstance, result := none }) ∧
      exec (.buildSg h) s = .next (s.respond { status := .invalidArgument, result := none })) ∧
    (h.toNat < s.nCreated →
      (∃ t es, exec (.feed h) s = .next t ∧
        t.responses = s.responses ++ [{ status := .ok, result := some (.events es) }]) ∧
      (s.operands.segs = [] → ∃ t F, exec (.buildSg h) s = .next t ∧
        t.responses = s.responses ++ [{ status := .ok, result := some (.frame F) }]))

/- ==== BUILD_SG (42_assembler.md) ==== -/

/-- R140: the header generator: bytes 0..5 the preambles, the big-endian length and data CRC; bytes 6..7 the big-endian CRC of
those six from 0. -/
def Obligations.HeaderGeneratorLaysOutHeader : Prop :=
  ∀ (P : Params) (p1 p2 : Byte) (len d : U16),
    let h6 : List Byte :=
      [p1, p2, len.extractLsb' 8 8, len.extractLsb' 0 8, d.extractLsb' 8 8, d.extractLsb' 0 8]
    let hc := crc16 P h6 0x0000#16
    headerGen P p1 p2 len d = h6 ++ [hc.extractLsb' 8 8, hc.extractLsb' 0 8] ∧
      (headerGen P p1 p2 len d).length = 8

/-- R143, whole, and R71. On a valid handle within the limits BUILD_SG completes with a frame that has the fields of the frame
table for the payload its segments carry (the data CRC that of the whole payload, R141), and nothing else changes; in every
state its answer is that of the rule's pseudocode; its encoding; an empty payload; a total of 65535; and the rule's example. -/
def Obligations.BuildSgReturnsFrameOfPayload : Prop :=
  (∀ (s : State) (h : Handle),
    h.toNat < s.nCreated →
    segmentsExceed s.params.maxSegments s.operands.segs.length = false →
    s.operands.segs.flatten.length ≤ 65535 →
    s.operands.segs.flatten.length ≤ s.params.txMaxPayload →
    ∃ frame : List Byte,
      exec (.buildSg h) s = .next { s with
        responses := s.responses ++ [{ status := .ok, result := some (.frame frame) }] } ∧
      frame.take 2 = [(s.ctx h.toNat).p1, (s.ctx h.toNat).p2] ∧
      (frame.drop 2).take 2 = be16 (BitVec.ofNat 16 s.operands.segs.flatten.length) ∧
      (frame.drop 4).take 2 = be16 (crc16 s.params s.operands.segs.flatten 0x0000#16) ∧
      (frame.drop 6).take 2 = be16 (crc16 s.params (frame.take 6) 0x0000#16) ∧
      frame.drop 8 = s.operands.segs.flatten ∧
      frame.length = 8 + s.operands.segs.flatten.length) ∧
  (∀ (s : State) (h : Handle),
    let total := (s.operands.segs.map List.length).sum
    exec (.buildSg h) s = .next (s.respond
      (if ¬ h.toNat < s.nCreated then { status := .invalidArgument, result := none }
      else if s.params.maxSegments ≠ .unbounded ∧ segmentsExceed s.params.maxSegments s.operands.segs.length = true then
        { status := .invalidArgument, result := none }
      else if 65535 < total then { status := .invalidArgument, result := none }
      else if s.params.txMaxPayload < total then { status := .allocationFailure, result := none }
      else
        { status := .ok
          result := some (.frame
            (headerGen s.params (s.ctx h.toNat).p1 (s.ctx h.toNat).p2 (BitVec.ofNat 16 total)
                (s.operands.segs.foldl (fun d seg => crc16 s.params seg d) 0x0000#16) ++
              s.operands.segs.flatten)) }))) ∧
  (∀ w : U32, (∃ h, decode w = .legal (.buildSg h)) ↔ w &&& 0xFF00FFFF#32 = 0x40000000#32) ∧
  (∀ (s : State) (h : Handle), h.toNat < s.nCreated → s.params.maxSegments = .unbounded → s.operands.segs.flatten = [] →
    ∃ hc, exec (.buildSg h) s = .next (s.respond
      { status := .ok
        result := some (.frame ([(s.ctx h.toNat).p1, (s.ctx h.toNat).p2, 0x00#8, 0x00#8, 0x00#8, 0x00#8] ++ be16 hc)) })) ∧
  (∀ s : State, 0 < s.nCreated → s.params.maxSegments = .unbounded → s.params.crcReflected = false →
    3 ≤ s.params.txMaxPayload → (s.ctx 0).p1 = 0xAA#8 → (s.ctx 0).p2 = 0x55#8 →
    exec (.buildSg 0#8) (s.withSegs [[0x01#8, 0x02#8], [0x03#8]]) =
      .next ((s.withSegs [[0x01#8, 0x02#8], [0x03#8]]).respond
        { status := .ok
          result := some (.frame [0xAA#8, 0x55#8, 0x00#8, 0x03#8, 0x61#8, 0x31#8, 0x16#8, 0x76#8, 0x01#8, 0x02#8, 0x03#8]) }))

/-- R144, R145, R146, R147 and R148: the failing checks of BUILD_SG in their order, each with its status, no result and no state
change; with P_MAX_SEGMENTS = UNBOUNDED the segment count never fails; and a total above 65535 never reports
ALLOCATION_FAILURE. -/
def Obligations.BuildSgChecksInOrder : Prop :=
  (∀ (s : State) (h : Handle), s.nCreated ≤ h.toNat →
    exec (.buildSg h) s = .next (s.respond { status := .invalidArgument, result := none })) ∧
  (∀ (s : State) (h : Handle) (m : Nat), h.toNat < s.nCreated → s.params.maxSegments = .atMost m →
    m < s.operands.segs.length →
    exec (.buildSg h) s = .next (s.respond { status := .invalidArgument, result := none })) ∧
  (∀ (s : State) (h : Handle), h.toNat < s.nCreated → 65535 < (s.operands.segs.map List.length).sum →
    exec (.buildSg h) s = .next (s.respond { status := .invalidArgument, result := none })) ∧
  (∀ (s : State) (h : Handle), h.toNat < s.nCreated →
    (s.params.maxSegments = .unbounded ∨
      ∃ m, s.params.maxSegments = .atMost m ∧ s.operands.segs.length ≤ m) →
    (s.operands.segs.map List.length).sum ≤ 65535 →
    s.params.txMaxPayload < (s.operands.segs.map List.length).sum →
    exec (.buildSg h) s = .next (s.respond { status := .allocationFailure, result := none })) ∧
  (∀ (s : State) (h : Handle), h.toNat < s.nCreated → s.params.maxSegments = .unbounded →
    (s.operands.segs.map List.length).sum ≤ 65535 →
    (s.operands.segs.map List.length).sum ≤ s.params.txMaxPayload →
    ∃ F, exec (.buildSg h) s = .next (s.respond { status := .ok, result := some (.frame F) }))

/-- 42_assembler.md section 1 (R141, the spec's own derivation): how a payload is cut into segments does not matter. Two
segment lists with the same bytes, both within P_MAX_SEGMENTS, get the same response. -/
def Obligations.SegmentationDoesNotChangeFrame : Prop :=
  ∀ (s t u : State) (h : Handle) (S T : List (List Byte)),
    S.flatten = T.flatten →
    segmentsExceed s.params.maxSegments S.length = segmentsExceed s.params.maxSegments T.length →
    exec (.buildSg h) (s.withSegs S) = .next t → exec (.buildSg h) (s.withSegs T) = .next u →
      newResponses s t = newResponses s u

/-- 42_assembler.md section 2 (R149) and 20_memory.md section 3 (R60), the spec's own derivations: BUILD_SG changes no state,
and of its context it reads only the preambles: what is being received does not matter. -/
def Obligations.BuildSgNeitherWritesNorReadsReceiveState : Prop :=
  (∀ (s t : State) (h : Handle), exec (.buildSg h) s = .next t →
    t.params = s.params ∧ t.nCreated = s.nCreated ∧ t.slots = s.slots ∧ t.pending = s.pending ∧
    t.operands = s.operands ∧ ∃ r, t.responses = s.responses ++ [r] ∧ r.events = []) ∧
  (∀ (s t s' t' : State) (h : Handle),
    s.params = t.params → s.nCreated = t.nCreated → s.operands = t.operands →
    (s.ctx h.toNat).p1 = (t.ctx h.toNat).p1 → (s.ctx h.toNat).p2 = (t.ctx h.toNat).p2 →
    exec (.buildSg h) s = .next s' → exec (.buildSg h) t = .next t' →
      newResponses s s' = newResponses t t')

/- ==== FEED (43_receiver.md) ==== -/

/-- R160: FEED, whole. On an invalid handle it returns INVALID_INSTANCE, no byte consumed; on a valid one the loop of
`rx_step` over the bytes gives the context and the events, each with the handle and the token, and OK is returned; only
the context's receive fields are written, never p1 or p2; its encoding; and the rule's example, with every token. -/
def Obligations.FeedRunsEveryByteThroughContext : Prop :=
  (∀ (s : State) (h : Handle), s.nCreated ≤ h.toNat →
    exec (.feed h) s = .next (s.respond { status := .invalidInstance, result := none })) ∧
  (∀ (s : State) (h : Handle), h.toNat < s.nCreated →
    ∃ (c : Context) (evs : List Event),
      s.operands.data.foldl
        (fun (acc : Context × List Event) (b : Byte) =>
          ((rxStep s.params acc.1 h s.operands.token b).1,
            acc.2 ++ (rxStep s.params acc.1 h s.operands.token b).2.toList))
        (s.ctx h.toNat, []) = (c, evs) ∧
      exec (.feed h) s = .next { s with
        slots := s.slots.set h.toNat c
        responses := s.responses ++ [{ status := .ok, result := some (.events evs) }] } ∧
      (∀ e ∈ evs, e.handle = h ∧ e.token = s.operands.token) ∧
      c.p1 = (s.ctx h.toNat).p1 ∧ c.p2 = (s.ctx h.toNat).p2) ∧
  (∀ w : U32, (∃ h, decode w = .legal (.feed h)) ↔ w &&& 0xFF00FFFF#32 = 0x30000000#32) ∧
  (∀ (s : State) (tok : Token), s.Inv → 0 < s.nCreated → s.params.crcReflected = false → 3 ≤ s.params.maxPayload →
    (s.ctx 0).p1 = 0xAA#8 → (s.ctx 0).p2 = 0x55#8 → (s.ctx 0).st = .seekP1 →
    ∃ t, exec (.feed 0#8) (s.withFeed tok [0xAA#8, 0x55#8, 0x00#8, 0x03#8, 0x61#8, 0x31#8, 0x16#8, 0x76#8,
        0x01#8, 0x02#8, 0x03#8]) = .next t ∧
      newEvents s t =
        [plainEvent 0#8 tok .preambleDetected,
          validDataEvent 0#8 tok ⟨0xAA#8, 0x55#8, 0x00#8, 0x03#8, 0x61#8, 0x31#8, 0x16#8, 0x76#8⟩
            [0x01#8, 0x02#8, 0x03#8]] ∧
      (t.ctx 0).st = .seekP1)

/-- 43_receiver.md section 1 (R161, the spec's own derivation): a FEED of no bytes on a valid handle returns OK with no
events and changes no state. -/
def Obligations.EmptyFeedChangesNothing : Prop :=
  ∀ (s : State) (h : Handle), s.Inv → h.toNat < s.nCreated → s.operands.data = [] →
    exec (.feed h) s = .next (s.respond { status := .ok, result := some (.events []) })

/-- R163 and R164: the preamble search. SEEK_P1 waits for preamble_1; SEEK_P2 tests preamble_2 first, then preamble_1, else
returns to SEEK_P1; detection stages bytes 0 and 1. No other field changes. -/
def Obligations.PreambleSearchSteps : Prop :=
  ∀ (P : Params) (c : Context) (h : Handle) (tok : Token) (b : Byte),
    (c.st = .seekP1 →
      (b = c.p1 → rxStep P c h tok b = ({ c with st := .seekP2 }, none)) ∧
      (b ≠ c.p1 → rxStep P c h tok b = (c, none))) ∧
    (c.st = .seekP2 →
      (b = c.p2 → rxStep P c h tok b =
        ({ c with hdr := { c.hdr with b0 := c.p1, b1 := c.p2 }, st := .lenHi },
          some (plainEvent h tok .preambleDetected))) ∧
      (b ≠ c.p2 → b = c.p1 → rxStep P c h tok b = (c, none)) ∧
      (b ≠ c.p2 → b ≠ c.p1 → rxStep P c h tok b = ({ c with st := .seekP1 }, none)))

/-- R165, R166, R167, R168 and R169: the header bytes are staged in order and accepted whatever their value, with the length and the
expected header CRC assembled high byte first; no event. -/
def Obligations.HeaderBytesAreStagedInOrder : Prop :=
  ∀ (P : Params) (c : Context) (h : Handle) (tok : Token) (b : Byte),
    (c.st = .lenHi → rxStep P c h tok b =
      ({ c with len := b.zeroExtend 16 <<< 8, hdr := { c.hdr with b2 := b }, st := .lenLo }, none)) ∧
    (c.st = .lenLo → rxStep P c h tok b =
      ({ c with len := c.len ||| b.zeroExtend 16, hdr := { c.hdr with b3 := b }, st := .dcrcHi }, none)) ∧
    (c.st = .dcrcHi → rxStep P c h tok b = ({ c with hdr := { c.hdr with b4 := b }, st := .dcrcLo }, none)) ∧
    (c.st = .dcrcLo → rxStep P c h tok b = ({ c with hdr := { c.hdr with b5 := b }, st := .hcrcHi }, none)) ∧
    (c.st = .hcrcHi → rxStep P c h tok b =
      ({ c with hcrcExp := b.zeroExtend 16 <<< 8, hdr := { c.hdr with b6 := b }, st := .hcrcLo }, none))

/-- R170 and R171: at HCRC_LO the low byte of the expected header CRC and header byte 7 are taken, and the CRC of the six
staged bytes is compared with the expected one. On a mismatch HEADER_CRC_ERROR is emitted, the search restarts, and the
receive buffer and its hidden bit are as before; otherwise the header is accepted (`acceptHeader`, whose rules R177, R176 and
R178 MatchedHeaderIsValidatedAndAccepted states). -/
def Obligations.HeaderCrcMismatchRestartsSearch : Prop :=
  ∀ (P : Params) (c : Context) (h : Handle) (tok : Token) (b : Byte), c.st = .hcrcLo →
    (crc16 P [c.hdr.b0, c.hdr.b1, c.hdr.b2, c.hdr.b3, c.hdr.b4, c.hdr.b5] 0x0000#16 ≠
      c.hcrcExp ||| b.zeroExtend 16 →
    rxStep P c h tok b =
      ({ c with hcrcExp := c.hcrcExp ||| b.zeroExtend 16, hdr := { c.hdr with b7 := b }, st := .seekP1 },
        some (plainEvent h tok .headerCrcError))) ∧
    (crc16 P [c.hdr.b0, c.hdr.b1, c.hdr.b2, c.hdr.b3, c.hdr.b4, c.hdr.b5] 0x0000#16 =
      c.hcrcExp ||| b.zeroExtend 16 →
    rxStep P c h tok b =
      acceptHeader P { c with hcrcExp := c.hcrcExp ||| b.zeroExtend 16, hdr := { c.hdr with b7 := b } } h tok)

/-- R176, R177 and R178: on a header CRC match the retained buffer is released first; then a length above P_MAX_PAYLOAD emits
PACKET_LENGTH_ERROR; then length 0 completes the frame at once, VALID_DATA with the empty payload if the staged data CRC is
0x0000, else DATA_CRC_ERROR; else DATA is entered. A held buffer is released at no other point, and with P_MAX_PAYLOAD = 65535
the validator never fails. -/
def Obligations.MatchedHeaderIsValidatedAndAccepted : Prop :=
  (∀ (P : Params) (c : Context) (h : Handle) (tok : Token) (b : Byte), c.st = .hcrcLo →
    crc16 P [c.hdr.b0, c.hdr.b1, c.hdr.b2, c.hdr.b3, c.hdr.b4, c.hdr.b5] 0x0000#16 =
      c.hcrcExp ||| b.zeroExtend 16 →
    ∃ d : Context,
      d = { c with
        hcrcExp := c.hcrcExp ||| b.zeroExtend 16, hdr := { c.hdr with b7 := b }, rxHeld := false, rx := [],
        rxCrc := 0x0000#16 } ∧
      (P.maxPayload < c.len.toNat → rxStep P c h tok b =
        ({ d with st := .seekP1 }, some (plainEvent h tok .packetLengthError))) ∧
      (c.len.toNat ≤ P.maxPayload → c.len = 0x0000#16 → join16 c.hdr.b4 c.hdr.b5 = 0x0000#16 →
        rxStep P c h tok b = ({ d with st := .seekP1 }, some (validDataEvent h tok d.hdr []))) ∧
      (c.len.toNat ≤ P.maxPayload → c.len = 0x0000#16 → join16 c.hdr.b4 c.hdr.b5 ≠ 0x0000#16 →
        rxStep P c h tok b = ({ d with st := .seekP1, rxHeld := true }, some (plainEvent h tok .dataCrcError))) ∧
      (c.len.toNat ≤ P.maxPayload → c.len ≠ 0x0000#16 → rxStep P c h tok b = ({ d with st := .data }, none))) ∧
  (∀ (P : Params) (c : Context) (h : Handle) (tok : Token) (b : Byte),
    c.rxHeld = true → (rxStep P c h tok b).1.rxHeld = false →
      c.st = .hcrcLo ∧ crc16 P c.hdr.forming 0x0000#16 = c.hcrcExp ||| b.zeroExtend 16) ∧
  (∀ (P : Params) (c c' : Context) (h : Handle) (tok : Token) (b : Byte) (e : Event),
    P.maxPayload = 65535 → rxStep P c h tok b = (c', some e) → e.kind ≠ .packetLengthError)

/-- R179, R180 and R181: in DATA every byte is payload; when `len` bytes are there the accumulated CRC decides between VALID_DATA, with
the eight staged bytes and the payload, the buffer freed, and DATA_CRC_ERROR, the buffer retained. -/
def Obligations.PayloadIsCollectedAndChecked : Prop :=
  ∀ (P : Params) (c : Context) (h : Handle) (tok : Token) (b : Byte), c.st = .data →
    (c.rx.length + 1 ≠ c.len.toNat → rxStep P c h tok b =
      ({ c with rx := c.rx ++ [b], rxCrc := crcStep P c.rxCrc b }, none)) ∧
    (c.rx.length + 1 = c.len.toNat → crcStep P c.rxCrc b = join16 c.hdr.b4 c.hdr.b5 → rxStep P c h tok b =
      ({ c with rx := [], rxCrc := 0x0000#16, st := .seekP1 },
        some (validDataEvent h tok c.hdr (c.rx ++ [b])))) ∧
    (c.rx.length + 1 = c.len.toNat → crcStep P c.rxCrc b ≠ join16 c.hdr.b4 c.hdr.b5 → rxStep P c h tok b =
      ({ c with rx := c.rx ++ [b], rxCrc := crcStep P c.rxCrc b, rxHeld := true, st := .seekP1 },
        some (plainEvent h tok .dataCrcError)))

/-- R82: every event of a FEED carries its handle and token; VALID_DATA, and it alone, carries the eight staged header bytes and the
completed payload, whose length is the header's. -/
def Obligations.OnlyValidDataCarriesHeaderAndPayload : Prop :=
  ∀ (P : Params) (c c' : Context) (h : Handle) (tok : Token) (b : Byte) (e : Event),
    ContextInv P c → rxStep P c h tok b = (c', some e) →
      e.handle = h ∧ e.token = tok ∧
      (e.kind ≠ .validData → e.metadata = none ∧ e.payload = none) ∧
      (e.kind = .validData → e.metadata = some c'.hdr ∧
        ∃ p, e.payload = some p ∧ p = (if c.st = .data then c.rx ++ [b] else []) ∧
          p.length = (join16 c'.hdr.b2 c'.hdr.b3).toNat ∧ p.length = c'.len.toNat)

/-- R202: each error event has its one cause, returns the FSM to SEEK_P1, and does with the receive buffer what the table says:
neither allocated nor released; released; retained and not delivered. -/
def Obligations.ErrorEventsHaveTheirCauses : Prop :=
  ∀ (P : Params) (c c' : Context) (h : Handle) (tok : Token) (b : Byte) (e : Event),
    ContextInv P c → rxStep P c h tok b = (c', some e) →
      let received := c.hcrcExp ||| b.zeroExtend 16
      let computed := crc16 P c.hdr.forming 0x0000#16
      (e.kind.code = 1#3 ↔ c.st = .hcrcLo ∧ computed ≠ received) ∧
      (e.kind.code = 1#3 → c'.st = .seekP1 ∧ c'.rx = c.rx ∧ c'.rxCrc = c.rxCrc ∧ c'.rxHeld = c.rxHeld) ∧
      (e.kind.code = 2#3 ↔ c.st = .hcrcLo ∧ computed = received ∧ P.maxPayload < c.len.toNat) ∧
      (e.kind.code = 2#3 → c'.st = .seekP1 ∧ c'.rx = [] ∧ c'.rxHeld = false) ∧
      (e.kind.code = 3#3 ↔
        (c.st = .hcrcLo ∧ computed = received ∧ c.len = 0x0000#16 ∧
          crc16 P [] 0x0000#16 ≠ join16 c.hdr.b4 c.hdr.b5) ∨
        (c.st = .data ∧ c.rx.length + 1 = c.len.toNat ∧
          crc16 P (c.rx ++ [b]) 0x0000#16 ≠ join16 c.hdr.b4 c.hdr.b5)) ∧
      (e.kind.code = 3#3 → c'.st = .seekP1 ∧ c'.rxHeld = true ∧ (c.st = .data → c'.rx = c.rx ++ [b])) ∧
      (e.kind.code = 1#3 ∨ e.kind.code = 2#3 ∨ e.kind.code = 3#3 → e = plainEvent h tok e.kind)

/-- 43_receiver.md section 6 (R182, the spec's own derivation) and 30_encoding.md section 2 (R83): a FEED emits at most one event
for each input byte; the events of a chunk are those of its first part followed by those of the rest, in byte order. -/
def Obligations.EventsFollowInputBytes : Prop :=
  ∀ (P : Params) (c : Context) (h : Handle) (tok : Token) (A B : List Byte),
    (feedBytes P c h tok A).2.length ≤ A.length ∧
    feedBytes P c h tok (A ++ B) =
      ((feedBytes P (feedBytes P c h tok A).1 h tok B).1,
        (feedBytes P c h tok A).2 ++ (feedBytes P (feedBytes P c h tok A).1 h tok B).2)

/-- 43_receiver.md section 6 (R183, the spec's own derivation): chunking invariance. FEED_CHUNKS, any cutting of a byte stream into
FEEDs, leaves the contexts and returns the events that one FEED of the whole does; with a token for each of two chunks the
events differ only in their token, each carrying that of its chunk. -/
def Obligations.ChunkingDoesNotMatter : Prop :=
  (∀ (s : State) (h : Handle) (tok : Token) (chunks : List (List Byte)), s.Inv → h.toNat < s.nCreated →
    ∃ t u,
      Sys2Proof.core.run chunks.length (s.withCommands (chunks.map fun d => .feed h tok d)) = .next t ∧
      Sys2Proof.core.run 1 (s.withCommands [.feed h tok chunks.flatten]) = .next u ∧
      t.slots = u.slots ∧ t.nCreated = u.nCreated ∧ newEvents s t = newEvents s u) ∧
  (∀ (s : State) (h : Handle) (tok tokA tokB : Token) (A B : List Byte), s.Inv → h.toNat < s.nCreated →
    ∃ t u evsA evsB,
      Sys2Proof.core.run 2 (s.withCommands [.feed h tokA A, .feed h tokB B]) = .next t ∧
      Sys2Proof.core.run 1 (s.withCommands [.feed h tok (A ++ B)]) = .next u ∧
      t.slots = u.slots ∧ newEvents s t = evsA ++ evsB ∧
      (∀ e ∈ evsA, e.token = tokA) ∧ (∀ e ∈ evsB, e.token = tokB) ∧
      newEvents s u = (evsA ++ evsB).map (Event.Of.retoken tok))

/-- R185: a context stays in whatever state the last byte left it. A step that takes no command, an illegal word, a command that is not
a FEED of this context, or a FEED of no bytes leaves every field of a created context as it was; only a hardware reset does
not (R230). -/
def Obligations.ContextStallsUntilFed : Prop :=
  ∀ (s t : State) (h : Handle), s.Inv → h.toNat < s.nCreated → step s = .next t →
    (s.pending = [] ∨
      ∃ w ops rest, s.pending = .command w ops :: rest ∧ (decode w ≠ .legal (.feed h) ∨ ops.data = [])) →
    h.toNat < t.nCreated ∧ t.ctx h.toNat = s.ctx h.toNat

/-- 43_receiver.md section 6 (R188, the spec's own derivation): without a preamble in the data a FEED from SEEK_P1 emits nothing, and
the context stays in the search; from SEEK_P2 the first byte alone can complete the preamble. -/
def Obligations.SilenceWithoutPreamble : Prop :=
  (∀ (s : State) (h : Handle), s.Inv → h.toNat < s.nCreated → (s.ctx h.toNat).st = .seekP1 →
    NoPreamble (s.ctx h.toNat).p1 (s.ctx h.toNat).p2 s.operands.data →
    ∃ t, exec (.feed h) s = .next t ∧
      t.responses = s.responses ++ [{ status := .ok, result := some (.events []) }] ∧
      ((t.ctx h.toNat).st = .seekP1 ∨ (t.ctx h.toNat).st = .seekP2)) ∧
  (∀ (s : State) (h : Handle) (rest : List Byte), s.Inv → h.toNat < s.nCreated → (s.ctx h.toNat).st = .seekP2 →
    s.operands.data = (s.ctx h.toNat).p2 :: rest →
    ∃ t es, exec (.feed h) s = .next t ∧
      t.responses = s.responses ++
        [{ status := .ok, result := some (.events (plainEvent h s.operands.token .preambleDetected :: es)) }])

/-- 43_receiver.md section 6 (R189, the spec's own derivation): one flipped bit of a valid frame fed from SEEK_P1. In a payload byte:
PREAMBLE_DETECTED, DATA_CRC_ERROR. In bytes 2..7: PREAMBLE_DETECTED, HEADER_CRC_ERROR, then what the payload bytes produce from
SEEK_P1. In byte 0 or 1: no event for this frame's start, the rest being scanned for a preamble. It holds in both bit
orders. -/
def Obligations.SingleBitErrorsAreCaught : Prop :=
  ∀ (s : State) (h : Handle) (tok : Token) (F : List Byte) (i k : Nat),
    s.Inv → h.toNat < s.nCreated → (s.ctx h.toNat).st = .seekP1 →
    ValidFrame s.params (s.ctx h.toNat) F → F.length - 8 ≤ s.params.maxPayload → i < F.length → k < 8 →
    ∃ t evs, exec (.feed h) (s.withFeed tok (flipBit F i k)) = .next t ∧
      t.responses = s.responses ++ [{ status := .ok, result := some (.events evs) }] ∧
      (8 ≤ i → evs = [plainEvent h tok .preambleDetected, plainEvent h tok .dataCrcError] ∧
        (t.ctx h.toNat).st = .seekP1) ∧
      (2 ≤ i → i < 8 → ∃ c : Context, c.st = .seekP1 ∧ c.p1 = (s.ctx h.toNat).p1 ∧ c.p2 = (s.ctx h.toNat).p2 ∧
        evs = plainEvent h tok .preambleDetected :: plainEvent h tok .headerCrcError ::
          (feedBytes s.params c h tok (F.drop 8)).2) ∧
      (i = 0 → evs = (feedBytes s.params (s.ctx h.toNat) h tok (F.drop 1)).2) ∧
      (i = 1 → ∃ c : Context, (c.st = .seekP1 ∨ c.st = .seekP2) ∧
        c.p1 = (s.ctx h.toNat).p1 ∧ c.p2 = (s.ctx h.toNat).p2 ∧
        evs = (feedBytes s.params c h tok (F.drop 2)).2)

/-- 42_assembler.md section 3 (R150, the spec's own derivation): the round trip. A frame BUILD_SG makes for a context in SEEK_P1, of a
payload both capacities hold, is a valid frame for it; and feeding it to the context gives exactly PREAMBLE_DETECTED and VALID_DATA
with the frame's first eight bytes and the payload, and leaves SEEK_P1. -/
def Obligations.BuiltFrameRoundTrips : Prop :=
  ∀ (s : State) (h : Handle) (tok : Token) (S : List (List Byte)),
    s.Inv → h.toNat < s.nCreated → (s.ctx h.toNat).st = .seekP1 →
    segmentsExceed s.params.maxSegments S.length = false →
    totalLength S ≤ min s.params.txMaxPayload s.params.maxPayload →
    ∃ t u F m,
      exec (.buildSg h) (s.withSegs S) = .next t ∧
      newResponses s t = [{ status := .ok, result := some (.frame F) }] ∧
      ValidFrame s.params (s.ctx h.toNat) F ∧
      exec (.feed h) (t.withFeed tok F) = .next u ∧
      m.toList = F.take 8 ∧
      newResponses t u = [{ status := .ok, result := some (.events
        [plainEvent h tok .preambleDetected, validDataEvent h tok m (joinSegments S)]) }] ∧
      (u.ctx h.toNat).st = .seekP1

/-- 43_receiver.md section 6 (R190, the spec's own derivation): two valid frames back to back, fed from SEEK_P1 in any cutting into FEEDs,
yield their four events in order, each VALID_DATA with its frame's payload. -/
def Obligations.BackToBackFramesAreBothDelivered : Prop :=
  ∀ (s : State) (h : Handle) (tok : Token) (F1 F2 : List Byte) (chunks : List (List Byte)),
    s.Inv → h.toNat < s.nCreated → (s.ctx h.toNat).st = .seekP1 →
    ValidFrame s.params (s.ctx h.toNat) F1 → F1.length - 8 ≤ s.params.maxPayload →
    ValidFrame s.params (s.ctx h.toNat) F2 → F2.length - 8 ≤ s.params.maxPayload →
    chunks.flatten = F1 ++ F2 →
    ∃ t m1 m2,
      Sys2Proof.core.run chunks.length (s.withCommands (chunks.map fun d => .feed h tok d)) = .next t ∧
      newEvents s t =
        [plainEvent h tok .preambleDetected, validDataEvent h tok m1 (F1.drop 8),
          plainEvent h tok .preambleDetected, validDataEvent h tok m2 (F2.drop 8)] ∧
      m1.toList = F1.take 8 ∧ m2.toList = F2.take 8

/-- 70_reset_and_hazards.md section 4 (R241, the spec's own derivation): with p1 = p2 = X, a run of X bytes from SEEK_P1 detects the
preamble at the second X and takes the third and fourth as the length. -/
def Obligations.EqualPreambleRunIsTakenAsHeader : Prop :=
  ∀ (P : Params) (c : Context) (h : Handle) (tok : Token) (x : Byte),
    c.st = .seekP1 → c.p1 = x → c.p2 = x →
    (feedBytes P c h tok [x, x]).1.st = .lenHi ∧
    (feedBytes P c h tok [x, x]).2 = [plainEvent h tok .preambleDetected] ∧
    (feedBytes P c h tok [x, x, x, x]).1.len = join16 x x ∧
    (feedBytes P c h tok [x, x, x, x]).2 = [plainEvent h tok .preambleDetected]

/- ==== Frames, independence, and what cannot be observed ==== -/

/-- R63: contexts are independent. A FEED or BUILD_SG on a handle writes no field of any other context and reads none: what it returns
and what it makes of its own context depend on its own context alone, besides the parameters, `n_created` and its operands; and
two commands on different handles commute: each returns what it would, and the slots end the same. -/
def Obligations.ContextsAreIndependent : Prop :=
  (∀ (s t : State) (h : Handle) (k : Nat), k ≠ h.toNat →
    (exec (.feed h) s = .next t ∨ exec (.buildSg h) s = .next t) → t.ctx k = s.ctx k) ∧
  (∀ (s t s' t' : State) (h : Handle) (i : Instr), i = .feed h ∨ i = .buildSg h →
    s.Inv → t.Inv → s.params = t.params → s.nCreated = t.nCreated → s.operands = t.operands →
    s.ctx h.toNat = t.ctx h.toNat →
    exec i s = .next s' → exec i t = .next t' →
      newResponses s s' = newResponses t t' ∧ s'.ctx h.toNat = t'.ctx h.toNat) ∧
  (∀ (s : State) (g h : Handle) (a b : AsmCommand), onHandle g a → onHandle h b → g ≠ h →
    ∃ t u r q,
      Sys2Proof.core.run 2 (s.withCommands [a, b]) = .next t ∧
      Sys2Proof.core.run 2 (s.withCommands [b, a]) = .next u ∧
      newResponses s t = [r, q] ∧ newResponses s u = [q, r] ∧ t.slots = u.slots ∧ t.nCreated = u.nCreated)

/-- The frames of the four commands (20_memory.md section 3): what exec leaves as it was when it gives a next state. All leave the
parameters, the port's pending inputs and operands, the number of slots and the earlier responses; CREATE writes `n_created` and slot
`n_created` alone; FEED the receive fields of its slot alone; CRC and BUILD_SG nothing. The block has no memory and no flags. -/
def Obligations.CommandsChangeOnlyWhatTheyName : Prop :=
  (∀ (s t : State) (i : Instr), exec i s = .next t →
    t.params = s.params ∧ t.pending = s.pending ∧ t.operands = s.operands ∧ t.slots.length = s.slots.length ∧
    ∃ r, t.responses = s.responses ++ [r]) ∧
  (∀ (s t : State) (p1 p2 : Byte), exec (.create p1 p2) s = .next t →
    (t.nCreated = s.nCreated ∧ t.slots = s.slots ∨ t.nCreated = s.nCreated + 1) ∧
    ∀ k, k ≠ s.nCreated → t.ctx k = s.ctx k) ∧
  (∀ (s t : State) (h : Handle), exec (.feed h) s = .next t →
    t.nCreated = s.nCreated ∧ (∀ k, k ≠ h.toNat → t.ctx k = s.ctx k) ∧
    (t.ctx h.toNat).p1 = (s.ctx h.toNat).p1 ∧ (t.ctx h.toNat).p2 = (s.ctx h.toNat).p2) ∧
  (∀ (s t : State) (start : U16), exec (.crc start) s = .next t → t.nCreated = s.nCreated ∧ t.slots = s.slots) ∧
  (∀ (s t : State) (h : Handle), exec (.buildSg h) s = .next t → t.nCreated = s.nCreated ∧ t.slots = s.slots)

/-- 10_state.md section 5 (R37) and 70_reset_and_hazards.md section 1: the fields of uncreated slots cannot be observed. Two states that
differ in nothing else step to states that again differ in nothing else, with the same responses. So no claim about what the host
sees rests on the value log entry 3 chose. -/
def Obligations.UncreatedSlotsAreUnobservable : Prop :=
  ∀ s t : State, SameCreated s t →
    ∃ s' t', step s = .next s' ∧ step t = .next t' ∧ SameCreated s' t'

/-- 10_state.md section 5 (R38, the spec's own derivation) and R32's "No command result and no event depends on it": two contexts that
agree on what the current frame has written emit the same events on the same bytes, for ever. So the values CREATE gives `len`, `hdr`,
`hcrc_exp`, `rx` and `rx_crc`, and the hidden bit, are never observed. -/
def Obligations.StaleReceiveFieldsAreUnobservable : Prop :=
  ∀ (P : Params) (c d : Context) (h : Handle) (tok : Token) (data : List Byte), SameLive c d →
    (feedBytes P c h tok data).2 = (feedBytes P d h tok data).2 ∧
    SameLive (feedBytes P c h tok data).1 (feedBytes P d h tok data).1

/-- 92_eei_decisions.md D24 (the token is "copied unchanged into every event" and not inspected): the same bytes with another token leave the
same context and emit the same events but for the token; and so for tokens of any two types, one carried to the other by any
function. So nothing rests on the type log entry 5 chose for this machine. -/
def Obligations.TokenIsOnlyCopied : Prop :=
  (∀ (s t u : State) (h : Handle) (tok tok' : Token) (data : List Byte),
    exec (.feed h) (s.withFeed tok data) = .next t → exec (.feed h) (s.withFeed tok' data) = .next u →
      t.slots = u.slots ∧ newEvents s u = (newEvents s t).map (Event.Of.retoken tok') ∧
      (∀ e ∈ newEvents s t, e.token = tok)) ∧
  (∀ (A B : Type) (f : A → B) (P : Params) (c : Context) (h : Handle) (tok : A) (data : List Byte),
    feedBytes P c h (f tok) data =
      ((feedBytes P c h tok data).1, (feedBytes P c h tok data).2.map (Event.Of.mapToken f)))

/- ==== Invariants and headline safety ==== -/

/-- 10_state.md section 3: the machine right after reset meets the invariant, for every legal parameter set, and this machine's is
legal. -/
def Obligations.ResetMeetsInvariant : Prop :=
  (∀ P : Params, P.wf = true → (State.resetWith P).Inv) ∧ State.reset.Inv

/-- 10_state.md section 3 (R35, the spec's own derivation, made inductive): every step keeps the invariant: legal parameters, a slot for
every handle, and for every created context the staged preambles, the assembled length, the expected header CRC, and in DATA an
accepted header, a payload shorter than its length and the CRC of what is collected. -/
def Obligations.EveryStepKeepsInvariant : Prop :=
  ∀ s t : State, s.Inv → step s = .next t → t.Inv

/-- 43_receiver.md sections 3 to 5: soundness of delivery. Whatever bytes are fed, each VALID_DATA event a step returns carries header and
payload bytes that together are a valid frame (R74) for the context it names, of a payload the receive buffer holds. -/
def Obligations.OnlyValidFramesAreDelivered : Prop :=
  ∀ s t : State, s.Inv → step s = .next t →
    ∀ e ∈ newEvents s t, e.kind = .validData →
      ∃ m p, e.metadata = some m ∧ e.payload = some p ∧ e.handle.toNat < t.nCreated ∧
        ValidFrame t.params (t.ctx e.handle.toNat) (m.toList ++ p) ∧ p.length ≤ t.params.maxPayload
end

