-- ==== Sys2Proof/Laws/Config.lean ====
section
/-!
SUPPORT. What can be known of this machine's parameters: their ranges (R10), and the bit order (D7).
-/

namespace Sys2Proof

theorem Params.wf_iff (P : Params) :
    P.wf = true ↔ 1 ≤ P.maxInstances ∧ P.maxInstances ≤ 256 ∧ P.maxPayload ≤ 65535 ∧ P.txMaxPayload ≤ 65535 := by
  simp [Params.wf, and_assoc]

theorem Config.params_wf : Config.params.wf = true := by
  have h1 := Config.maxInstancesLessOne.isLt
  have h2 := Config.maxPayload.isLt
  have h3 := Config.txMaxPayload.isLt
  rw [Params.wf_iff]
  simp only [Config.params]
  omega

@[simp] theorem Config.params_crcReflected : Config.params.crcReflected = false := rfl

end Sys2Proof
end

