-- ==== Sys2Proof/Laws/Crc.lean ====
section
/-!
SUPPORT. The CRC's small lemmas: the fold on a sequence's shape, the step under each bit order, two bytes as a value.
-/

namespace Sys2Proof.Machine

@[simp] theorem crc16_nil (P : Params) (start : U16) : crc16 P [] start = start := rfl

@[simp] theorem crc16_cons (P : Params) (b : Byte) (bs : List Byte) (start : U16) :
    crc16 P (b :: bs) start = crc16 P bs (crcStep P start b) := rfl

theorem crcStep_forward {P : Params} (h : P.crcReflected = false) (c : U16) (b : Byte) :
    crcStep P c b = crcStepForward c b := by simp [crcStep, h]

theorem crcStep_reflected {P : Params} (h : P.crcReflected = true) (c : U16) (b : Byte) :
    crcStep P c b = crcStepReflected c b := by simp [crcStep, h]

/-- Only the bit order matters to the CRC. -/
theorem crc16_congr {P Q : Params} (h : P.crcReflected = Q.crcReflected) (data : List Byte) (start : U16) :
    crc16 P data start = crc16 Q data start := by
  have hs : crcStep P = crcStep Q := by funext c b; simp [crcStep, h]
  simp only [crc16, hs]

/-- Two bytes as a 16-bit value are the concatenation of their bits. -/
theorem join16_eq_append (hi lo : Byte) : join16 hi lo = hi ++ lo := by
  apply BitVec.eq_of_getElem_eq
  intro i hi16
  rw [BitVec.getElem_append]
  by_cases h : i < 8
  · simp [join16, h]
  · have h8 : i - 8 < 8 := by omega
    simp [join16, h, BitVec.getElem_shiftLeft, BitVec.getLsbD_eq_getElem h8, BitVec.getLsbD_of_ge lo i (by omega)]

end Sys2Proof.Machine
end

