-- ==== Sys2Proof/Laws/Decode.lean ====
section
/-!
SUPPORT. The fields of a command word made from its fields (R84), and a word's bytes as its IMM16.
-/

namespace Sys2Proof

variable (op : BitVec 4) (h : Handle) (imm : U16)

@[simp] theorem opField_commandWord : opField (commandWord op h imm) = op := by
  apply BitVec.eq_of_getLsbD_eq
  intro i hi
  simp [opField, commandWord, hi, show 28 + i - 16 ≥ 8 by omega, BitVec.getLsbD_of_ge imm (28 + i) (by omega),
    show 28 + i < 32 by omega]

@[simp] theorem rsvField_commandWord : rsvField (commandWord op h imm) = 0#4 := by
  apply BitVec.eq_of_getLsbD_eq
  intro i hi
  simp [rsvField, commandWord, show 24 + i < 28 by omega, BitVec.getLsbD_of_ge imm (24 + i) (by omega),
    BitVec.getLsbD_of_ge h (24 + i - 16) (by omega)]

@[simp] theorem handleField_commandWord : handleField (commandWord op h imm) = h := by
  apply BitVec.eq_of_getLsbD_eq
  intro i hi
  simp [handleField, commandWord, hi, show 16 + i < 28 by omega, show 16 + i < 32 by omega]

@[simp] theorem immField_commandWord : immField (commandWord op h imm) = imm := by
  apply BitVec.eq_of_getLsbD_eq
  intro i hi
  simp [immField, commandWord, hi, show i < 28 by omega, show i < 32 by omega]

/-- P1 is the high byte of IMM16. -/
theorem p1Field_eq (w : U32) : p1Field w = (immField w).extractLsb' 8 8 := by
  apply BitVec.eq_of_getLsbD_eq
  intro i hi
  simp [p1Field, immField, hi]

/-- P2 is the low byte of IMM16. -/
theorem p2Field_eq (w : U32) : p2Field w = (immField w).extractLsb' 0 8 := by
  apply BitVec.eq_of_getLsbD_eq
  intro i hi
  simp [p2Field, immField, hi]

/-- A word is made of its fields when RSV is zero. -/
theorem commandWord_of_fields (w : U32) (hr : rsvField w = 0#4) :
    commandWord (opField w) (handleField w) (immField w) = w := by
  apply BitVec.eq_of_getLsbD_eq
  intro i hi
  by_cases h16 : i < 16
  · simp [commandWord, immField, h16, hi, show i < 28 by omega]
  · by_cases h24 : i < 24
    · simp [commandWord, immField, handleField, h16, hi, show i < 28 by omega, show i - 16 < 8 by omega,
        show 16 + (i - 16) = i by omega]
    · by_cases h28 : i < 28
      · have hb : (rsvField w).getLsbD (i - 24) = false := by simp [hr]
        simp only [rsvField, BitVec.getLsbD_extractLsb', show 24 + (i - 24) = i by omega,
          show i - 24 < 4 by omega, decide_true, Bool.true_and] at hb
        simp [commandWord, immField, handleField, h16, h28, hb, show ¬ i - 16 < 8 by omega]
      · simp [commandWord, immField, handleField, opField, h16, h28, hi, show ¬ i - 16 < 8 by omega,
          show i - 28 < 4 by omega, show 28 + (i - 28) = i by omega]

end Sys2Proof
end

