-- ==== Sys2Proof/Laws/State.lean ====
section
/-!
SUPPORT. One lemma per field per update of the state, so that no later proof unfolds a record update; and reading a
context slot after writing one.
-/

namespace Sys2Proof.Machine

variable {TOKEN : Type} (s : State.Of TOKEN)

/- ==== State.Of.respond ==== -/
@[simp] theorem State.Of.respond_params (r : Response.Of TOKEN) : (s.respond r).params = s.params := rfl
@[simp] theorem State.Of.respond_nCreated (r : Response.Of TOKEN) : (s.respond r).nCreated = s.nCreated := rfl
@[simp] theorem State.Of.respond_slots (r : Response.Of TOKEN) : (s.respond r).slots = s.slots := rfl
@[simp] theorem State.Of.respond_pending (r : Response.Of TOKEN) : (s.respond r).pending = s.pending := rfl
@[simp] theorem State.Of.respond_operands (r : Response.Of TOKEN) : (s.respond r).operands = s.operands := rfl
@[simp] theorem State.Of.respond_responses (r : Response.Of TOKEN) : (s.respond r).responses = s.responses ++ [r] := rfl

/- ==== State.Of.setCtx ==== -/
@[simp] theorem State.Of.setCtx_params (h : Nat) (c : Context) : (s.setCtx h c).params = s.params := rfl
@[simp] theorem State.Of.setCtx_nCreated (h : Nat) (c : Context) : (s.setCtx h c).nCreated = s.nCreated := rfl
@[simp] theorem State.Of.setCtx_slots (h : Nat) (c : Context) : (s.setCtx h c).slots = s.slots.set h c := rfl
@[simp] theorem State.Of.setCtx_pending (h : Nat) (c : Context) : (s.setCtx h c).pending = s.pending := rfl
@[simp] theorem State.Of.setCtx_operands (h : Nat) (c : Context) : (s.setCtx h c).operands = s.operands := rfl
@[simp] theorem State.Of.setCtx_responses (h : Nat) (c : Context) : (s.setCtx h c).responses = s.responses := rfl

/- ==== State.Of.accept ==== -/
@[simp] theorem State.Of.accept_params (ops : Bundle.Of TOKEN) (rest : List (HostInput.Of TOKEN)) : (s.accept ops rest).params = s.params := rfl
@[simp] theorem State.Of.accept_nCreated (ops : Bundle.Of TOKEN) (rest : List (HostInput.Of TOKEN)) : (s.accept ops rest).nCreated = s.nCreated := rfl
@[simp] theorem State.Of.accept_slots (ops : Bundle.Of TOKEN) (rest : List (HostInput.Of TOKEN)) : (s.accept ops rest).slots = s.slots := rfl
@[simp] theorem State.Of.accept_pending (ops : Bundle.Of TOKEN) (rest : List (HostInput.Of TOKEN)) : (s.accept ops rest).pending = rest := rfl
@[simp] theorem State.Of.accept_operands (ops : Bundle.Of TOKEN) (rest : List (HostInput.Of TOKEN)) : (s.accept ops rest).operands = ops := rfl
@[simp] theorem State.Of.accept_responses (ops : Bundle.Of TOKEN) (rest : List (HostInput.Of TOKEN)) : (s.accept ops rest).responses = s.responses := rfl

/- ==== State.Of.hardwareReset ==== -/
@[simp] theorem State.Of.hardwareReset_params (rest : List (HostInput.Of TOKEN)) : (s.hardwareReset rest).params = s.params := rfl
@[simp] theorem State.Of.hardwareReset_nCreated (rest : List (HostInput.Of TOKEN)) : (s.hardwareReset rest).nCreated = 0 := rfl
@[simp] theorem State.Of.hardwareReset_slots (rest : List (HostInput.Of TOKEN)) : (s.hardwareReset rest).slots = List.replicate s.params.maxInstances Context.uncreated := rfl
@[simp] theorem State.Of.hardwareReset_pending (rest : List (HostInput.Of TOKEN)) : (s.hardwareReset rest).pending = rest := rfl
@[simp] theorem State.Of.hardwareReset_operands (rest : List (HostInput.Of TOKEN)) : (s.hardwareReset rest).operands = s.operands := rfl
@[simp] theorem State.Of.hardwareReset_responses (rest : List (HostInput.Of TOKEN)) : (s.hardwareReset rest).responses = s.responses := rfl

/- ==== State.Of.ctx ==== -/

@[simp] theorem State.Of.respond_ctx (r : Response.Of TOKEN) (k : Nat) : (s.respond r).ctx k = s.ctx k := rfl

@[simp] theorem State.Of.accept_ctx (ops : Bundle.Of TOKEN) (rest : List (HostInput.Of TOKEN)) (k : Nat) :
    (s.accept ops rest).ctx k = s.ctx k := rfl

/-- A slot that exists reads back what was written to it. -/
theorem State.Of.setCtx_ctx_self (h : Nat) (c : Context) (hh : h < s.slots.length) : (s.setCtx h c).ctx h = c := by
  simp [State.Of.ctx, hh]

/-- Writing a slot leaves every other slot as it was. -/
theorem State.Of.setCtx_ctx_of_ne (h k : Nat) (c : Context) (hk : k ≠ h) : (s.setCtx h c).ctx k = s.ctx k := by
  simp [State.Of.ctx, Ne.symm hk]

/-- Writing back what a slot holds changes nothing. -/
theorem State.Of.setCtx_ctx_eq_self (h : Nat) : s.setCtx h (s.ctx h) = s := by
  have hs : s.slots.set h (s.ctx h) = s.slots := by
    apply List.ext_getElem? ; intro k
    by_cases hk : h = k
    · subst hk
      by_cases hl : h < s.slots.length <;> simp [State.Of.ctx, hl]
    · simp [hk]
  simp [State.Of.setCtx, hs]

end Sys2Proof.Machine
end

