-- ==== Sys2Proof/Laws/Exec.lean ====
section
/-!
SUPPORT. What a command and a step can do, said once: one inversion lemma for each meaning and for `step`. Later proofs cite
these and unfold no meaning.
-/

namespace Sys2Proof.Machine

variable {TOKEN : Type}

theorem failWith_eq (s : State.Of TOKEN) (st : Status) : failWith s st = .next (s.respond { status := st, result := none }) := rfl

theorem completeOk_eq (s : State.Of TOKEN) (r : Result.Of TOKEN) :
    completeOk s r = .next (s.respond { status := .ok, result := some r }) := rfl

theorem State.Of.validHandle_iff (s : State.Of TOKEN) (h : Handle) : s.validHandle h = true ↔ h.toNat < s.nCreated := by
  simp [State.Of.validHandle]

/-- CREATE either fails on a full table or initialises the next slot. -/
theorem execCreate_cases (p1 p2 : Byte) (s : State.Of TOKEN) :
    (s.nCreated = s.params.maxInstances ∧ execCreate p1 p2 s = failWith s .capacityExceeded) ∨
    (s.nCreated ≠ s.params.maxInstances ∧
      execCreate p1 p2 s = .next ({ s.setCtx s.nCreated (createdContext p1 p2) with nCreated := s.nCreated + 1 }.respond
        { status := .ok, result := some (.handle s.nextHandle) })) := by
  by_cases hf : s.nCreated = s.params.maxInstances
  · exact .inl ⟨hf, by simp [execCreate, hf]⟩
  · exact .inr ⟨hf, by simp [execCreate, hf, completeOk]⟩

/-- FEED either fails its handle check or feeds every byte to its context. -/
theorem execFeed_cases (h : Handle) (s : State.Of TOKEN) :
    (s.nCreated ≤ h.toNat ∧ execFeed h s = failWith s .invalidInstance) ∨
    (h.toNat < s.nCreated ∧
      execFeed h s = .next ((s.setCtx h.toNat (feedBytes s.params (s.ctx h.toNat) h s.operands.token s.operands.data).1).respond
        { status := .ok
          result := some (.events (feedBytes s.params (s.ctx h.toNat) h s.operands.token s.operands.data).2) })) := by
  by_cases hv : h.toNat < s.nCreated
  · exact .inr ⟨hv, by
      simp [execFeed, State.Of.validHandle, hv, completeOk, State.Of.tokenOperand, State.Of.dataOperand]⟩
  · exact .inl ⟨Nat.le_of_not_lt hv, by simp [execFeed, State.Of.validHandle, hv]⟩

/-- BUILD_SG only ever returns a response: a failing status of its checks, or the frame. -/
theorem execBuildSg_cases (h : Handle) (s : State.Of TOKEN) :
    (s.nCreated ≤ h.toNat ∧ execBuildSg h s = failWith s .invalidArgument) ∨
    (h.toNat < s.nCreated ∧ segmentsExceed s.params.maxSegments s.operands.segs.length = true ∧
      execBuildSg h s = failWith s .invalidArgument) ∨
    (h.toNat < s.nCreated ∧ segmentsExceed s.params.maxSegments s.operands.segs.length = false ∧
      65535 < totalLength s.operands.segs ∧ execBuildSg h s = failWith s .invalidArgument) ∨
    (h.toNat < s.nCreated ∧ segmentsExceed s.params.maxSegments s.operands.segs.length = false ∧
      totalLength s.operands.segs ≤ 65535 ∧ s.params.txMaxPayload < totalLength s.operands.segs ∧
      execBuildSg h s = failWith s .allocationFailure) ∨
    (h.toNat < s.nCreated ∧ segmentsExceed s.params.maxSegments s.operands.segs.length = false ∧
      totalLength s.operands.segs ≤ 65535 ∧ totalLength s.operands.segs ≤ s.params.txMaxPayload ∧
      execBuildSg h s = completeOk s (.frame (buildFrame s.params (s.ctx h.toNat) s.operands.segs))) := by
  by_cases hv : h.toNat < s.nCreated
  · refine .inr ?_
    cases hx : segmentsExceed s.params.maxSegments s.operands.segs.length
    · refine .inr ?_
      by_cases ho : 65535 < totalLength s.operands.segs
      · exact .inl ⟨hv, rfl, ho, by simp [execBuildSg, State.Of.validHandle, State.Of.segsOperand, hv, hx, ho]⟩
      · by_cases ha : s.params.txMaxPayload < totalLength s.operands.segs
        · exact .inr (.inl ⟨hv, rfl, Nat.le_of_not_lt ho, ha,
            by simp [execBuildSg, State.Of.validHandle, State.Of.segsOperand, hv, hx, ho, ha]⟩)
        · exact .inr (.inr ⟨hv, rfl, Nat.le_of_not_lt ho, Nat.le_of_not_lt ha,
            by simp [execBuildSg, State.Of.validHandle, State.Of.segsOperand, hv, hx, ho, ha]⟩)
    · exact .inl ⟨hv, rfl, by simp [execBuildSg, State.Of.validHandle, State.Of.segsOperand, hv, hx]⟩
  · exact .inl ⟨Nat.le_of_not_lt hv, by simp [execBuildSg, State.Of.validHandle, hv]⟩

/-- A step waits, resets, runs the decoded instruction or rejects the word; nothing else. -/
theorem step_cases (s : State) :
    (s.pending = [] ∧ step s = .next s) ∨
    (∃ rest, s.pending = .reset :: rest ∧ step s = .next (s.hardwareReset rest)) ∨
    (∃ w ops rest i, s.pending = .command w ops :: rest ∧ decode w = .legal i ∧
      step s = exec i (s.accept ops rest)) ∨
    (∃ w ops rest why, s.pending = .command w ops :: rest ∧ decode w = .illegal why ∧
      step s = rejectIllegal s rest) := by
  cases hp : s.pending with
  | nil => exact .inl ⟨rfl, by simp [step, hp]⟩
  | cons head rest =>
    refine .inr ?_
    cases head with
    | reset => exact .inl ⟨rest, rfl, by simp [step, hp]⟩
    | command w ops =>
      refine .inr ?_
      cases hd : decode w with
      | legal i => exact .inl ⟨w, ops, rest, i, rfl, hd, by simp [step, hp, hd]⟩
      | illegal why => exact .inr ⟨w, ops, rest, why, rfl, hd, by simp [step, hp, hd]⟩

end Sys2Proof.Machine
end

