-- ==== Sys2Proof/Laws/PerInstr.lean ====
section
/-!
SUPPORT. What holds of each instruction's command word: its RSV field is 0000 (R84) and it selects the row of the opcode
table that has its mnemonic (R85).
-/

namespace Sys2Proof.Laws.TableRow

/-- The word of `i` has RSV zero and selects a row of R85 with the mnemonic of `i`. -/
def Statement (i : Instr) : Prop :=
  rsvField (encode i) = 0#4 ∧ ∃ r ∈ opcodeTable, r.mnemonic = i.mnemonic ∧ r.selects (encode i) = true

/-- The mask of CREATE and CRC keeps every field but IMM16. -/
theorem upper_mask (op : BitVec 4) (h : Handle) (imm : U16) :
    commandWord op h imm &&& 0xFFFF0000#32 = commandWord op h 0#16 := by
  apply BitVec.eq_of_getLsbD_eq
  intro i hi
  interval_cases i <;> simp [commandWord]

/-- The mask of FEED and BUILD_SG keeps every field but HANDLE. -/
theorem handle_mask (op : BitVec 4) (h : Handle) (imm : U16) :
    commandWord op h imm &&& 0xFF00FFFF#32 = commandWord op 0#8 imm := by
  apply BitVec.eq_of_getLsbD_eq
  intro i hi
  interval_cases i <;> simp [commandWord]

theorem create (p1 p2 : Byte) : Statement (.create p1 p2) := by
  refine ⟨by simp [encode], opcodeTable[0], by simp [opcodeTable], rfl, ?_⟩
  simp [OpcodeRow.selects, opcodeTable, encode, upper_mask]
  decide

theorem crc (start : U16) : Statement (.crc start) := by
  refine ⟨by simp [encode], opcodeTable[1], by simp [opcodeTable], rfl, ?_⟩
  simp [OpcodeRow.selects, opcodeTable, encode, upper_mask]
  decide

theorem feed (h : Handle) : Statement (.feed h) := by
  refine ⟨by simp [encode], opcodeTable[2], by simp [opcodeTable], rfl, ?_⟩
  simp [OpcodeRow.selects, opcodeTable, encode, handle_mask]
  decide

theorem buildSg (h : Handle) : Statement (.buildSg h) := by
  refine ⟨by simp [encode], opcodeTable[3], by simp [opcodeTable], rfl, ?_⟩
  simp [OpcodeRow.selects, opcodeTable, encode, handle_mask]
  decide

end Sys2Proof.Laws.TableRow
end

