-- ==== Sys2Proof/Laws/Receiver.lean ====
section
/-!
SUPPORT. The FSM's small lemmas: which rule a parse state applies, what a step never writes, and the chunk's recursion.
-/

namespace Sys2Proof.Machine

variable {TOKEN : Type} {P : Params} {c : Context} {h : Handle} {tok : TOKEN} {b : Byte}

theorem rxStep_of_seekP1 (hs : c.st = .seekP1) : rxStep P c h tok b = rxSeekP1 c b := by simp [rxStep, hs]
theorem rxStep_of_seekP2 (hs : c.st = .seekP2) : rxStep P c h tok b = rxSeekP2 c h tok b := by simp [rxStep, hs]
theorem rxStep_of_lenHi (hs : c.st = .lenHi) : rxStep P c h tok b = rxLenHi c b := by simp [rxStep, hs]
theorem rxStep_of_lenLo (hs : c.st = .lenLo) : rxStep P c h tok b = rxLenLo c b := by simp [rxStep, hs]
theorem rxStep_of_dcrcHi (hs : c.st = .dcrcHi) : rxStep P c h tok b = rxDcrcHi c b := by simp [rxStep, hs]
theorem rxStep_of_dcrcLo (hs : c.st = .dcrcLo) : rxStep P c h tok b = rxDcrcLo c b := by simp [rxStep, hs]
theorem rxStep_of_hcrcHi (hs : c.st = .hcrcHi) : rxStep P c h tok b = rxHcrcHi c b := by simp [rxStep, hs]
theorem rxStep_of_hcrcLo (hs : c.st = .hcrcLo) : rxStep P c h tok b = rxHcrcLo P c h tok b := by simp [rxStep, hs]
theorem rxStep_of_data (hs : c.st = .data) : rxStep P c h tok b = rxData P c h tok b := by simp [rxStep, hs]

/-- What HCRC_LO can do, once: the header CRC fails; or it matches and the length is too large, is zero, or leads to
DATA. -/
theorem rxHcrcLo_cases (d : Context) (hd : d = stageHcrcLo c b) :
    (crc16 P d.hdr.forming 0x0000#16 ≠ d.hcrcExp ∧
      rxHcrcLo P c h tok b = ({ d with st := .seekP1 }, some (plainEvent h tok .headerCrcError))) ∨
    (crc16 P d.hdr.forming 0x0000#16 = d.hcrcExp ∧ P.maxPayload < d.len.toNat ∧
      rxHcrcLo P c h tok b =
        ({ releaseBuffer d with st := .seekP1 }, some (plainEvent h tok .packetLengthError))) ∨
    (crc16 P d.hdr.forming 0x0000#16 = d.hcrcExp ∧ d.len = 0x0000#16 ∧
      rxHcrcLo P c h tok b = completeEmpty (releaseBuffer d) h tok) ∨
    (crc16 P d.hdr.forming 0x0000#16 = d.hcrcExp ∧ d.len.toNat ≤ P.maxPayload ∧ d.len ≠ 0x0000#16 ∧
      rxHcrcLo P c h tok b = ({ releaseBuffer d with st := .data }, none)) := by
  subst hd
  by_cases h1 : crc16 P (stageHcrcLo c b).hdr.forming 0x0000#16 = (stageHcrcLo c b).hcrcExp
  · by_cases h2 : P.maxPayload < (stageHcrcLo c b).len.toNat
    · exact .inr (.inl ⟨h1, h2, by simp [rxHcrcLo, acceptHeader, h1, h2, releaseBuffer]⟩)
    · by_cases h3 : (stageHcrcLo c b).len = 0x0000#16
      · exact .inr (.inr (.inl ⟨h1, h3, by simp [rxHcrcLo, acceptHeader, h1, h3, releaseBuffer]⟩))
      · exact .inr (.inr (.inr ⟨h1, Nat.le_of_not_lt h2, h3,
          by simp [rxHcrcLo, acceptHeader, h1, h2, h3, releaseBuffer]⟩))
  · exact .inl ⟨h1, by simp [rxHcrcLo, h1]⟩

/-- What DATA can do, once: collect; or complete the payload with a matching or a wrong data CRC. -/
theorem rxData_cases (d : Context) (hd : d = { c with rx := c.rx ++ [b], rxCrc := crcStep P c.rxCrc b }) :
    (d.rx.length ≠ c.len.toNat ∧ rxData P c h tok b = (d, none)) ∨
    (d.rx.length = c.len.toNat ∧ d.rxCrc = c.dcrcExp ∧ rxData P c h tok b =
      ({ d with rx := [], rxCrc := 0x0000#16, st := .seekP1 }, some (validDataEvent h tok c.hdr d.rx))) ∨
    (d.rx.length = c.len.toNat ∧ d.rxCrc ≠ c.dcrcExp ∧ rxData P c h tok b =
      ({ d with rxHeld := true, st := .seekP1 }, some (plainEvent h tok .dataCrcError))) := by
  subst hd
  by_cases h1 : (c.rx ++ [b]).length = c.len.toNat
  · by_cases h2 : crcStep P c.rxCrc b = c.dcrcExp
    · exact .inr (.inl ⟨h1, h2, by simp only [rxData, completePayload, h1, Context.dcrcExp] at *; simp [h2]⟩)
    · exact .inr (.inr ⟨h1, h2, by simp only [rxData, completePayload, h1, Context.dcrcExp] at *; simp [h2]⟩)
  · exact .inl ⟨h1, by simp only [rxData, h1, if_false]⟩

/-- Whatever a zero-length frame's data CRC, only `st` and `rx_held` change. -/
theorem completeEmpty_fst :
    (completeEmpty c h tok).1 = { c with st := .seekP1, rxHeld := (completeEmpty c h tok).1.rxHeld } := by
  simp only [completeEmpty]
  split <;> rfl

/-- No byte rewrites the configured preambles (R25). -/
theorem rxStep_preambles : (rxStep P c h tok b).1.p1 = c.p1 ∧ (rxStep P c h tok b).1.p2 = c.p2 := by
  cases hs : c.st with
  | seekP1 => rw [rxStep_of_seekP1 hs, rxSeekP1]; split <;> exact ⟨rfl, rfl⟩
  | seekP2 => rw [rxStep_of_seekP2 hs, rxSeekP2]; split <;> [exact ⟨rfl, rfl⟩; (split <;> exact ⟨rfl, rfl⟩)]
  | lenHi => rw [rxStep_of_lenHi hs]; exact ⟨rfl, rfl⟩
  | lenLo => rw [rxStep_of_lenLo hs]; exact ⟨rfl, rfl⟩
  | dcrcHi => rw [rxStep_of_dcrcHi hs]; exact ⟨rfl, rfl⟩
  | dcrcLo => rw [rxStep_of_dcrcLo hs]; exact ⟨rfl, rfl⟩
  | hcrcHi => rw [rxStep_of_hcrcHi hs]; exact ⟨rfl, rfl⟩
  | hcrcLo =>
    rw [rxStep_of_hcrcLo hs]
    rcases rxHcrcLo_cases (P := P) (c := c) (h := h) (tok := tok) (b := b) _ rfl with
      ⟨-, e⟩ | ⟨-, -, e⟩ | ⟨-, -, e⟩ | ⟨-, -, -, e⟩ <;> rw [e]
    · exact ⟨rfl, rfl⟩
    · exact ⟨rfl, rfl⟩
    · rw [completeEmpty_fst]; exact ⟨rfl, rfl⟩
    · exact ⟨rfl, rfl⟩
  | data =>
    rw [rxStep_of_data hs]
    rcases rxData_cases (P := P) (c := c) (h := h) (tok := tok) (b := b) _ rfl with
      ⟨-, e⟩ | ⟨-, -, e⟩ | ⟨-, -, e⟩ <;> rw [e] <;> exact ⟨rfl, rfl⟩

@[simp] theorem feedBytes_nil : feedBytes P c h tok [] = (c, []) := rfl

theorem feedBytes_cons (bs : List Byte) :
    feedBytes P c h tok (b :: bs) =
      ((feedBytes P (rxStep P c h tok b).1 h tok bs).1,
        (rxStep P c h tok b).2.toList ++ (feedBytes P (rxStep P c h tok b).1 h tok bs).2) := rfl

end Sys2Proof.Machine
end

