-- ==== Sys2Proof/Machine/AsmText.lean ====
section
/-!
DEFINITION. The text of the assembler form (R91) and of the pseudo-commands (R92), read into the commands it stands for. A
byte is a `0x` literal (R12) or a pair of hexadecimal digits, a start value a `0x` literal or four hexadecimal digits (as
95_test_vectors.md writes them), a handle decimal (log entry 8). `TOKEN` being an argument (R10), so is what spells its
members: `token` reads one from a word (95_test_vectors.md, where TOKEN is the natural numbers: `natWord`). The block never
sees this text.
-/

namespace Sys2Proof.Machine

/-- A piece of the text: a word, or one of the marks of R91. -/
inductive AsmTok where
  | word (cs : List Char)
  | comma | openList | closeList | openSegs | closeSegs
deriving DecidableEq, Repr

/-- The mark a character is, if it is one; the braces by their code points 123 and 125. -/
def asmMark (ch : Char) : Option AsmTok :=
  if ch = ',' then some .comma
  else if ch = '[' then some .openList
  else if ch = ']' then some .closeList
  else if ch.toNat = 123 then some .openSegs
  else if ch.toNat = 125 then some .closeSegs
  else none

/-- The word collected so far, last character first, put before the pieces that follow. -/
def closeWord (acc : List Char) (rest : List AsmTok) : List AsmTok :=
  match acc with
  | [] => rest
  | _ :: _ => .word acc.reverse :: rest

/-- The pieces of a text: spaces end a word and are dropped. -/
def asmTokens (acc : List Char) : List Char → List AsmTok
  | [] => closeWord acc []
  | ch :: cs =>
    if ch = ' ' then closeWord acc (asmTokens [] cs)
    else match asmMark ch with
      | some t => closeWord acc (t :: asmTokens [] cs)
      | none => asmTokens (ch :: acc) cs

/-- The value of a digit in a base up to sixteen, of either case. -/
def digitValue (base : Nat) (ch : Char) : Option Nat :=
  let n := ch.toNat
  let v := if 48 ≤ n ∧ n ≤ 57 then n - 48 else if 65 ≤ n ∧ n ≤ 70 then n - 55 else if 97 ≤ n ∧ n ≤ 102 then n - 87 else 16
  if v < base then some v else none

/-- The value of a sequence of digits, most significant first, on top of `acc`. -/
def digitsValue (base acc : Nat) : List Char → Option Nat
  | [] => some acc
  | ch :: cs =>
    match digitValue base ch with
    | some v => digitsValue base (base * acc + v) cs
    | none => none

/-- A `0x` literal (R12), or exactly `digits` hexadecimal digits, below 16 to the power `digits`. -/
def hexWord (digits : Nat) (cs : List Char) : Option Nat :=
  match cs with
  | '0' :: 'x' :: d :: ds => (digitsValue 16 0 (d :: ds)).filter (fun v => v < 16 ^ digits)
  | _ => if cs.length = digits then digitsValue 16 0 cs else none

/-- A byte literal, or a hexadecimal pair. -/
def byteWord (cs : List Char) : Option Byte := (hexWord 2 cs).map (BitVec.ofNat 8)

/-- A start value: "u16 literal". -/
def u16Word (cs : List Char) : Option U16 := (hexWord 4 cs).map (BitVec.ofNat 16)

/-- A decimal number, with a digit at least. -/
def natWord (cs : List Char) : Option Nat := if cs = [] then none else digitsValue 10 0 cs

/-- "handle 0..255". -/
def handleWord (cs : List Char) : Option Handle := ((natWord cs).filter (fun v => v < 256)).map (BitVec.ofNat 8)

/-- The bytes of a list up to its end, an item after another with or without a comma between them; and what follows. -/
def listItems : List AsmTok → Option (List Byte × List AsmTok)
  | .closeList :: rest => some ([], rest)
  | .word cs :: rest | .comma :: .word cs :: rest =>
    match byteWord cs, listItems rest with
    | some b, some (bs, rest) => some (b :: bs, rest)
    | _, _ => none
  | _ => none

/-- A byte list, with its brackets. -/
def byteList : List AsmTok → Option (List Byte × List AsmTok)
  | .openList :: .comma :: _ => none
  | .openList :: rest => listItems rest
  | _ => none

/-- Byte lists with commas between them, at most `n`, and what follows the last. -/
def byteLists : Nat → List AsmTok → Option (List (List Byte) × List AsmTok)
  | 0, _ => none
  | n + 1, ts =>
    match byteList ts with
    | some (l, .comma :: rest) => (byteLists n rest).map (fun p => (l :: p.1, p.2))
    | some (l, rest) => some ([l], rest)
    | none => none

/-- The segments of BUILD_SG, with their braces, at the end of the text. -/
def segments : List AsmTok → Option (List (List Byte))
  | [.openSegs, .closeSegs] => some []
  | .openSegs :: rest =>
    match byteLists rest.length rest with
    | some (ls, [.closeSegs]) => some ls
    | _ => none
  | _ => none

/-- What ends the text, if that is what `read` gives and nothing follows. -/
def atEnd {α : Type} (read : Option (α × List AsmTok)) : Option α :=
  match read with
  | some (a, []) => some a
  | _ => none

/-- A command in the notation of R91. -/
def readCommand {TOKEN : Type} (token : List Char → Option TOKEN) (text : List Char) : Option (AsmCommand.Of TOKEN) :=
  match asmTokens [] text with
  | [.word m, .word a, .comma, .word b] =>
    if m = ['C', 'R', 'E', 'A', 'T', 'E'] then
      match byteWord a, byteWord b with
      | some p1, some p2 => some (.create p1 p2)
      | _, _ => none
    else none
  | .word m :: .word a :: .comma :: .word b :: .comma :: rest =>
    if m = ['F', 'E', 'E', 'D'] then
      match handleWord a, token b, atEnd (byteList rest) with
      | some h, some tok, some data => some (.feed h tok data)
      | _, _, _ => none
    else none
  | .word m :: .word a :: .comma :: rest =>
    if m = ['C', 'R', 'C'] then
      match u16Word a, atEnd (byteList rest) with
      | some start, some data => some (.crc start data)
      | _, _ => none
    else if m = ['B', 'U', 'I', 'L', 'D', '_', 'S', 'G'] then
      match handleWord a, segments rest with
      | some h, some segs => some (.buildSg h segs)
      | _, _ => none
    else none
  | _ => none

/-- A pseudo-command in the notation of R92. -/
def readPseudo {TOKEN : Type} (token : List Char → Option TOKEN) (text : List Char) : Option (PseudoCommand.Of TOKEN) :=
  match asmTokens [] text with
  | [.word m, .word a, .comma, .word t, .comma, .word b] =>
    if m = ['F', 'E', 'E', 'D', '_', 'B', 'Y', 'T', 'E'] then
      match handleWord a, token t, byteWord b with
      | some h, some tok, some v => some (.feedByte h tok v)
      | _, _, _ => none
    else none
  | .word m :: .word a :: .comma :: .word t :: .comma :: rest =>
    if m = ['F', 'E', 'E', 'D', '_', 'C', 'H', 'U', 'N', 'K', 'S'] then
      match handleWord a, token t, atEnd (byteLists rest.length rest) with
      | some h, some tok, some chunks => some (.feedChunks h tok chunks)
      | _, _, _ => none
    else none
  | .word m :: .word a :: .comma :: rest =>
    if m = ['B', 'U', 'I', 'L', 'D', '_', 'S', 'I', 'N', 'G', 'L', 'E'] then
      match handleWord a, atEnd (byteList rest) with
      | some h, some payload => some (.buildSingle h payload)
      | _, _ => none
    else if m = ['C', 'R', 'C', '_', 'C', 'H', 'A', 'I', 'N'] then
      match u16Word a, atEnd (byteLists 2 rest) with
      | some start, some [d1, d2] => some (.crcChain start d1 d2)
      | _, _ => none
    else none
  | _ => none

end Sys2Proof.Machine
end

