-- ==== Sys2Proof/Tests/Slice0.lean ====
section
/-!
SUPPORT. The tests. Expected results are the vectors of spec/95_test_vectors.md (DEC, CRC, CRE, BSG and FD numbers), derived
there from the rules and by nothing of this model; and for every statement of Certificates/Slice0/Obligations.lean with
hypotheses, a witness: a state and operands that meet all of them together.
-/

open Sys2Proof Sys2Proof.Machine

namespace Sys2Proof.Tests

/- ==== Decoding: L2.1, each word written out from the encoding of 30_encoding.md ==== -/

theorem test_decode_create : decode 0x1000AA55#32 = .legal (.create 0xAA#8 0x55#8) := by decide
theorem test_decode_create_second : decode 0x10007E81#32 = .legal (.create 0x7E#8 0x81#8) := by decide
theorem test_decode_crc : decode 0x2000FFFF#32 = .legal (.crc 0xFFFF#16) := by decide
theorem test_decode_crc_zero : decode 0x20000000#32 = .legal (.crc 0x0000#16) := by decide
theorem test_decode_feed : decode 0x30000000#32 = .legal (.feed 0#8) := by decide
theorem test_decode_feed_last : decode 0x30FF0000#32 = .legal (.feed 255#8) := by decide
theorem test_decode_buildSg : decode 0x40010000#32 = .legal (.buildSg 1#8) := by decide
theorem test_decode_opcode_zero : decode 0x00000000#32 = .illegal .opcode := by decide
theorem test_decode_opcode_five : decode 0x50000000#32 = .illegal .opcode := by decide
theorem test_decode_opcode_last : decode 0xF0000000#32 = .illegal .opcode := by decide
theorem test_decode_rsv_low : decode 0x1100AA55#32 = .illegal .reservedField := by decide
theorem test_decode_rsv_high : decode 0x38000000#32 = .illegal .reservedField := by decide
theorem test_decode_create_handle : decode 0x10010000#32 = .illegal .handleField := by decide
theorem test_decode_crc_handle : decode 0x20010000#32 = .illegal .handleField := by decide
theorem test_decode_feed_imm : decode 0x30010001#32 = .illegal .immField := by decide
theorem test_decode_buildSg_imm : decode 0x40008000#32 = .illegal .immField := by decide

/-- R84, R85: the bits of CREATE 0xAA, 0x55, field by field: OP 0001, RSV 0000, HANDLE 00000000, P1 10101010, P2 01010101. -/
theorem test_encode_create_bits :
    encode (.create 0xAA#8 0x55#8) = 0b0001#4 ++ 0b0000#4 ++ 0b00000000#8 ++ 0b10101010#8 ++ 0b01010101#8 := by decide
theorem test_encode_crc_bits :
    encode (.crc 0x20B5#16) = 0b0010#4 ++ 0b0000#4 ++ 0b00000000#8 ++ 0b0010000010110101#16 := by decide
theorem test_encode_feed_bits :
    encode (.feed 5#8) = 0b0011#4 ++ 0b0000#4 ++ 0b00000101#8 ++ 0b0000000000000000#16 := by decide
theorem test_encode_buildSg_bits :
    encode (.buildSg 1#8) = 0b0100#4 ++ 0b0000#4 ++ 0b00000001#8 ++ 0b0000000000000000#16 := by decide

/- ==== Well-formedness (R10): a legal parameter set, and one ill-formed set for each check ==== -/

/-- The default configuration of L2 and L3. -/
def defaults : Params where
  maxInstances := 2
  maxPayload := 16
  txMaxPayload := 100
  maxSegments := .unbounded
  crcReflected := false

theorem test_wf_accepts_defaults : defaults.wf = true := by decide
theorem test_wf_accepts_bounds :
    Params.wf { defaults with maxInstances := 256, maxPayload := 65535, txMaxPayload := 65535 } = true := by decide
theorem test_wf_refuses_no_instance : Params.wf { defaults with maxInstances := 0 } = false := by decide
theorem test_wf_refuses_257_instances : Params.wf { defaults with maxInstances := 257 } = false := by decide
theorem test_wf_refuses_payload : Params.wf { defaults with maxPayload := 65536 } = false := by decide
theorem test_wf_refuses_tx_payload : Params.wf { defaults with txMaxPayload := 65536 } = false := by decide

/- ==== States and frames of L2 ==== -/

/-- The machine right after reset with the default configuration. -/
def fresh : State := State.resetWith defaults

/-- The standard start of L2, for any type of tokens: contexts 0 (AA 55) and 1 (7E 81), both in SEEK_P1. -/
def standardOf (TOKEN : Type) [Inhabited TOKEN] : State.Of TOKEN :=
  { State.resetWith defaults with
    nCreated := 2
    slots := [createdContext 0xAA#8 0x55#8, createdContext 0x7E#8 0x81#8] }

/-- The standard start of this machine. -/
def standard : State := standardOf Token

/-- The one token of this machine that can be named; which others there are is open (log entry 5). -/
abbrev tok : Token := default

/-- One context created, one slot free. -/
def halfFull : State :=
  { fresh with nCreated := 1, slots := [createdContext 0xAA#8 0x55#8, Context.uncreated] }

/-- The frame F. -/
def frameF : List Byte := [0xAA#8, 0x55#8, 0x00#8, 0x03#8, 0x61#8, 0x31#8, 0x16#8, 0x76#8, 0x01#8, 0x02#8, 0x03#8]

/-- The frame F2. -/
def frameF2 : List Byte := [0xAA#8, 0x55#8, 0x00#8, 0x02#8, 0x79#8, 0xEA#8, 0xD1#8, 0x8A#8, 0x48#8, 0x69#8]

/-- The header of F. -/
def headerF : Header := ⟨0xAA#8, 0x55#8, 0x00#8, 0x03#8, 0x61#8, 0x31#8, 0x16#8, 0x76#8⟩

/-- The state an outcome goes on in, if it does. -/
def after {TOKEN : Type} (o : Host.Outcome (State.Of TOKEN) Fault Refusal) : Option (State.Of TOKEN) :=
  match o with
  | .next s => some s
  | .fault _ => none
  | .refused _ => none

/-- The response an outcome adds to those of `standard` or `fresh`, which have none. -/
def answered {TOKEN : Type} (o : Host.Outcome (State.Of TOKEN) Fault Refusal) : Option (List (Response.Of TOKEN)) :=
  (after o).map State.Of.responses

/-- A context of the state an outcome goes on in. -/
def contextAfter {TOKEN : Type} (o : Host.Outcome (State.Of TOKEN) Fault Refusal) (h : Nat) : Option Context := (after o).map fun s => s.ctx h

/- ==== One step of each command: L2.2 to L2.5 ==== -/

/-- CRE1. -/
theorem test_create_first :
    answered (exec (.create 0xAA#8 0x55#8) fresh) = some [{ status := .ok, result := some (.handle 0#8) }] ∧
    contextAfter (exec (.create 0xAA#8 0x55#8) fresh) 0 =
      some ⟨0xAA#8, 0x55#8, .seekP1, 0x0000#16, ⟨0#8, 0#8, 0#8, 0#8, 0#8, 0#8, 0#8, 0#8⟩, 0x0000#16, [], 0x0000#16, false⟩ := by
  decide

/-- CRE3. -/
theorem test_create_full :
    answered (exec (.create 0x01#8 0x02#8) standard) = some [{ status := .capacityExceeded, result := none }] ∧
    (after (exec (.create 0x01#8 0x02#8) standard)).map State.Of.nCreated = some 2 := by
  decide

/-- CRC8. -/
theorem test_crc_start_enters_register :
    answered (exec (.crc 0x1234#16) (fresh.withFeed tok [0x41#8])) =
      some [{ status := .ok, result := some (.crc 0x5E96#16) }] := by
  decide +kernel

/-- CRC18, and its value under `P_CRC_REFLECTED = true` (R109). -/
theorem test_crc_check_values :
    crc16 defaults [0x31#8, 0x32#8, 0x33#8, 0x34#8, 0x35#8, 0x36#8, 0x37#8, 0x38#8, 0x39#8] 0x0000#16 = 0x31C3#16 ∧
    crc16 { defaults with crcReflected := true }
      [0x31#8, 0x32#8, 0x33#8, 0x34#8, 0x35#8, 0x36#8, 0x37#8, 0x38#8, 0x39#8] 0x0000#16 = 0x2189#16 := by
  decide +kernel

/-- FD2, with the spec's TOKEN, the natural numbers, and its token 7: the AA AA pair stays in SEEK_P2, and F is delivered. -/
theorem test_feed_delivers :
    answered (execFeed 0#8 ((standardOf Nat).withFeed 7 ([0x00#8, 0xAA#8] ++ frameF))) =
      some [{ status := .ok, result := some (.events
        [plainEvent 0#8 7 .preambleDetected, validDataEvent 0#8 7 headerF [0x01#8, 0x02#8, 0x03#8]]) }] := by
  decide +kernel

/-- FD4: byte 9 of F is 82; the payload is retained. -/
theorem test_feed_data_crc_error :
    contextAfter (exec (.feed 0#8) (standard.withFeed tok
        [0xAA#8, 0x55#8, 0x00#8, 0x03#8, 0x61#8, 0x31#8, 0x16#8, 0x76#8, 0x01#8, 0x82#8, 0x03#8])) 0 =
      some ⟨0xAA#8, 0x55#8, .seekP1, 0x0003#16, headerF, 0x1676#16, [0x01#8, 0x82#8, 0x03#8], 0x7AA9#16, true⟩ := by
  decide +kernel

/-- BSG3: empty segments contribute nothing. -/
theorem test_buildSg_frame :
    answered (exec (.buildSg 0#8) (standard.withSegs [[0x01#8], [], [0x02#8], [0x03#8]])) =
      some [{ status := .ok, result := some (.frame frameF) }] := by
  decide +kernel

/-- BSG15: 101 bytes exceed P_TX_MAX_PAYLOAD. -/
theorem test_buildSg_capacity :
    answered (exec (.buildSg 0#8) (standard.withSegs [List.replicate 60 0x00#8, List.replicate 41 0x00#8])) =
      some [{ status := .allocationFailure, result := none }] := by
  decide +kernel

/-- P5, step 0: a hardware reset between commands. -/
theorem test_hardware_reset :
    (after (step { standard with pending := [.reset] })).map (fun s => (s.nCreated, s.responses.length)) = some (0, 0) := by
  decide

/-- The host's first command after reset, issued by `withFetchWord`, is the one the next step runs. -/
theorem test_withFetchWord_runs :
    answered (step (fresh.withFetchWord 32 0x1000AA55)) = some [{ status := .ok, result := some (.handle 0#8) }] ∧
    decodeTableWord 32 0x1000AA55 = some (.create 0xAA#8 0x55#8) ∧ decodeTableWord 32 0x50000000 = none := by
  decide

/- ==== The text of the assembler form (R91, R92) ==== -/

/-- The text of the example of R120, and the word it stands for. -/
theorem test_text_create :
    readCommand natWord "CREATE 0xAA, 0x55".toList = some (.create 0xAA#8 0x55#8) ∧
    (AsmCommand.Of.create 0xAA#8 0x55#8 : AsmCommand).word = 0x1000AA55#32 := by
  decide

/-- The text of the examples of R107 and R160, and FD22's. -/
theorem test_text_lists :
    readCommand natWord "CRC 0x20B5, [33 34 35]".toList = some (.crc 0x20B5#16 [0x33#8, 0x34#8, 0x35#8]) ∧
    readCommand natWord "FEED 0, 7, [0xAA, 0x55]".toList = some (.feed 0#8 7 [0xAA#8, 0x55#8]) ∧
    readCommand natWord "FEED 0, 7, []".toList = some (.feed 0#8 7 []) ∧
    readCommand natWord "FEED 256, 7, []".toList = none := by
  decide

/-- BUILD_SG's segments `[01 02], [03]` and none, in braces given by their code points. -/
theorem test_text_segments :
    readCommand natWord ("BUILD_SG 0, ".toList ++ [Char.ofNat 123] ++ "[01 02], [03]".toList ++ [Char.ofNat 125]) =
      some (.buildSg 0#8 [[0x01#8, 0x02#8], [0x03#8]]) ∧
    readCommand natWord ("BUILD_SG 0, ".toList ++ [Char.ofNat 123, Char.ofNat 125]) = some (.buildSg 0#8 []) := by
  decide

theorem test_text_pseudo :
    readPseudo natWord "FEED_BYTE 0, 7, 0xAA".toList = some (.feedByte 0#8 7 0xAA#8) ∧
    readPseudo natWord "FEED_CHUNKS 0, 7, [AA 55], [00]".toList = some (.feedChunks 0#8 7 [[0xAA#8, 0x55#8], [0x00#8]]) ∧
    readPseudo natWord "BUILD_SINGLE 1, [48 69]".toList = some (.buildSingle 1#8 [0x48#8, 0x69#8]) ∧
    readPseudo natWord "CRC_CHAIN 0x0000, [31 32], [33]".toList = some (.crcChain 0x0000#16 [0x31#8, 0x32#8] [0x33#8]) := by
  decide

/- ==== Witnesses: the hypotheses of each statement can be met ==== -/

theorem standard_inv : standard.Inv := ⟨by decide, by decide, by decide, by decide⟩

theorem halfFull_inv : halfFull.Inv := ⟨by decide, by decide, by decide, by decide⟩

/-- `s` with one command at the head of its port and `rest` behind it. -/
def issuing (s : State) (w : U32) (ops : Bundle) : State := { s with pending := [.command w ops, .reset] }

/-- A bundle of segments. -/
def segsBundle (segs : List (List Byte)) : Bundle := { token := tok, data := [], segs := segs }

theorem witness_LegalWordIsEncodingOfItsMeaning : decode 0x30FF0000#32 = .legal (.feed 255#8) := by decide

theorem witness_DecoderFollowsOpcodeTable :
    ∃ r ∈ opcodeTable, ∃ q ∈ opcodeTable, r.selects 0x40010000#32 = true ∧ q.selects 0x40010000#32 = true := by decide

/-- One word for each way to be illegal, at the edge of the legal encodings. -/
theorem witness_IllegalWordsCompleteWithIllegalCommand :
    ∀ p ∈ [(0x50000000#32, Illegal.opcode), (0x0FFFFFFF#32, .reservedField), (0x10010000#32, .handleField),
        (0x20010000#32, .handleField), (0x30000001#32, .immField), (0x40000001#32, .immField),
        (0x00000000#32, .opcode)],
      (issuing fresh p.1 Bundle.empty).pending = .command p.1 Bundle.empty :: [.reset] ∧ decode p.1 = .illegal p.2 := by
  decide

theorem witness_StepRunsDecodedInstruction :
    (issuing standard 0x30000000#32 ⟨tok, frameF, []⟩).pending = .command 0x30000000#32 ⟨tok, frameF, []⟩ :: [.reset] ∧
    decode 0x30000000#32 = .legal (.feed 0#8) := by
  decide

theorem witness_IdleStepChangesNothing : standard.pending = [] := rfl

/-- Both clauses, the second for a command that returns OK. -/
theorem witness_EachCommandReturnsOneResponse :
    (∃ t, (issuing standard 0x50000000#32 Bundle.empty).pending = .command 0x50000000#32 Bundle.empty :: [.reset] ∧
      step (issuing standard 0x50000000#32 Bundle.empty) = .next t) ∧
    (∃ t r, exec (.create 0x7E#8 0x81#8) halfFull = .next t ∧ t.responses = halfFull.responses ++ [r] ∧ r.status = .ok) :=
  ⟨⟨_, rfl, rfl⟩, _, _, rfl, rfl, rfl⟩

/-- For each command two bundles that agree on what it reads and not on the other lists. -/
theorem witness_CommandsReadOnlyTheirOperands :
    SameOperands ⟨tok, frameF, []⟩ ⟨tok, [], [[0x01#8]]⟩ (.create 0xAA#8 0x55#8) ∧
    SameOperands ⟨tok, frameF, []⟩ ⟨tok, frameF, [[0x01#8]]⟩ (.crc 0x0000#16) ∧
    SameOperands ⟨tok, frameF, []⟩ ⟨tok, frameF, [[0x01#8]]⟩ (.feed 0#8) ∧
    SameOperands ⟨tok, frameF, [[0x01#8]]⟩ ⟨tok, [], [[0x01#8]]⟩ (.buildSg 0#8) :=
  ⟨trivial, rfl, ⟨rfl, rfl⟩, rfl⟩

theorem witness_ParametersNeverChange : ∃ t, step { standard with pending := [.reset] } = .next t := ⟨_, rfl⟩

theorem witness_HardwareResetUncreatesEveryContext :
    ({ standard with pending := [.reset, .reset] } : State).pending = .reset :: [.reset] ∧
    fresh.nCreated = 0 ∧ standard.slots.length = fresh.slots.length := ⟨rfl, rfl, rfl⟩

/-- The reset state of `defaults`, with operands. -/
theorem witness_BehaviourRightAfterReset :
    fresh.withFeed tok frameF = { State.resetWith defaults with operands := ⟨tok, frameF, []⟩ } := rfl

/-- A command for each failing status but BUILD_SG's overflow, and one that succeeds, all conditions met. -/
theorem witness_FailureStatusesHaveTheirCauses :
    ∀ p ∈ [(standard, 0x50000000#32, Bundle.empty, Status.illegalCommand),
        (standard, 0x10000102#32, Bundle.empty, .capacityExceeded),
        (standard, 0x30020000#32, Bundle.empty, .invalidInstance),
        (standard, 0x40020000#32, Bundle.empty, .invalidArgument),
        ({ standard with params := { defaults with maxSegments := .atMost 2 } }, 0x40000000#32,
          segsBundle [[0x01#8], [0x02#8], [0x03#8]], .invalidArgument),
        (standard, 0x40010000#32, segsBundle [List.replicate 101 0x00#8], .allocationFailure),
        (standard, 0x30010000#32, Bundle.empty, .ok)],
      decide ((issuing p.1 p.2.1 p.2.2.1).pending = .command p.2.1 p.2.2.1 :: [.reset]) = true ∧
      (answered (step (issuing p.1 p.2.1 p.2.2.1))).map (fun rs => rs.map Response.Of.status) =
        some ((issuing p.1 p.2.1 p.2.2.1).responses.map Response.Of.status ++ [p.2.2.2]) := by
  decide +kernel

/-- Handing BUILD_SG one segment of more than 65535 bytes. -/
theorem overflow_answer (n : Nat) (hn : 65535 < n) :
    ∃ t r, step (issuing standard 0x40000000#32 (segsBundle [List.replicate n 0x00#8])) = .next t ∧
      t.responses = (issuing standard 0x40000000#32 (segsBundle [List.replicate n 0x00#8])).responses ++ [r] ∧
      r.status.code = 0x02#8 := by
  have hd : decode 0x40000000#32 = .legal (.buildSg 0#8) := by decide
  refine ⟨((issuing standard 0x40000000#32 (segsBundle [List.replicate n 0x00#8])).accept
    (segsBundle [List.replicate n 0x00#8]) [.reset]).respond { status := .invalidArgument, result := none },
    { status := .invalidArgument, result := none }, ?_, rfl, rfl⟩
  simp [step, issuing, hd, exec, execBuildSg, State.Of.accept, State.Of.validHandle, standard, standardOf,
    segsBundle, State.Of.segsOperand, segmentsExceed, totalLength, failWith, State.Of.respond, hn]

/-- The overflow cause, at its boundary 65536 (R144). -/
theorem witness_FailureStatusesHaveTheirCauses_overflow :
    ∃ t r, step (issuing standard 0x40000000#32 (segsBundle [List.replicate 65536 0x00#8])) = .next t ∧
      t.responses = (issuing standard 0x40000000#32 (segsBundle [List.replicate 65536 0x00#8])).responses ++ [r] ∧
      r.status.code = 0x02#8 :=
  overflow_answer 65536 (by decide)

theorem witness_CrcCommandReturnsCrcOfData : defaults.crcReflected = false := rfl

/-- CRC19, CRC20 and CRC18: head, tail and whole. -/
theorem witness_CrcChainsOverConcatenation :
    ∃ t u v,
      exec (.crc 0x0000#16) (standard.withFeed standard.operands.token [0x31#8, 0x32#8]) = .next t ∧
      t.responses = standard.responses ++ [{ status := .ok, result := some (.crc 0x20B5#16) }] ∧
      exec (.crc 0x20B5#16) (t.withFeed t.operands.token [0x33#8]) = .next u ∧
      exec (.crc 0x0000#16) (standard.withFeed standard.operands.token ([0x31#8, 0x32#8] ++ [0x33#8])) = .next v :=
  ⟨_, _, _, rfl, by decide +kernel, rfl, rfl⟩

theorem witness_CrcStepEqualsTableForm : defaults.crcReflected = false := rfl

theorem witness_CrcIsLinearOverXor : frameF.length = (List.replicate 11 0x5A#8).length := rfl

theorem witness_CrcResidueIsZero : defaults.crcReflected = false := rfl

theorem witness_CrcReferenceCheckValues :
    defaults.crcReflected = false ∧ ({ defaults with crcReflected := true } : Params).crcReflected = true := by decide

/-- Each clause: the full table, the last free slot, and the run of the rule's example. -/
theorem witness_CreateInitialisesNextContext :
    standard.nCreated = standard.params.maxInstances ∧
    (halfFull.Inv ∧ halfFull.nCreated ≠ halfFull.params.maxInstances) ∧
    (defaults.maxInstances = 2 ∧
      ∃ t, Sys2Proof.core.run 3 { State.resetWith defaults with
        pending := [.command 0x1000AA55#32 Bundle.empty, .command 0x10007E81#32 Bundle.empty,
          .command 0x10000102#32 Bundle.empty] } = .next t) :=
  ⟨rfl, ⟨halfFull_inv, by decide⟩, rfl, _, rfl⟩

theorem witness_CapacityExhaustionIsPermanent :
    (issuing standard 0x10000102#32 Bundle.empty).nCreated = (issuing standard 0x10000102#32 Bundle.empty).params.maxInstances ∧
    (issuing standard 0x10000102#32 Bundle.empty).pending = .command 0x10000102#32 Bundle.empty :: [.reset] ∧
    ∃ t, step (issuing standard 0x10000102#32 Bundle.empty) = .next t :=
  ⟨rfl, rfl, _, rfl⟩

/-- A run with a CREATE between other commands; and as many CREATEs as there are slots. -/
theorem witness_HandlesAreSequentialFromReset :
    (∃ t, (fresh.withCommands [.crc 0x0000#16 [], .create 0xAA#8 0x55#8]).nCreated = 0 ∧
      HostInput.Of.reset ∉ (fresh.withCommands [.crc 0x0000#16 [], .create 0xAA#8 0x55#8]).pending ∧
      Sys2Proof.core.run 2 (fresh.withCommands [.crc 0x0000#16 [], .create 0xAA#8 0x55#8]) = .next t) ∧
    (defaults.wf = true ∧ [(0xAA#8, 0x55#8), (0x7E#8, 0x81#8)].length ≤ defaults.maxInstances) :=
  ⟨⟨_, rfl, by decide, rfl⟩, by decide⟩

theorem witness_EqualPreamblesAreAccepted :
    halfFull.nCreated ≠ halfFull.params.maxInstances ∧
    ({ createdContext 0x7E#8 0x7E#8 with st := .seekP2 } : Context).st = .seekP2 ∧
    (createdContext 0x7E#8 0x7E#8).p1 = 0x7E#8 ∧ (createdContext 0x7E#8 0x7E#8).p2 = 0x7E#8 := by
  decide

/-- Both clauses, the second for the last created context. -/
theorem witness_PreamblesAreWrittenOnce :
    (halfFull.Inv ∧ halfFull.nCreated ≠ halfFull.params.maxInstances ∧
      ∃ t, exec (.create 0x00#8 0xFF#8) halfFull = .next t) ∧
    (∃ t, (issuing standard 0x30010000#32 Bundle.empty).Inv ∧
      (issuing standard 0x30010000#32 Bundle.empty).pending = .command 0x30010000#32 Bundle.empty :: [.reset] ∧
      step (issuing standard 0x30010000#32 Bundle.empty) = .next t ∧
      1 < (issuing standard 0x30010000#32 Bundle.empty).nCreated) :=
  ⟨⟨halfFull_inv, by decide, _, rfl⟩, _, standard_inv, rfl, rfl, by decide⟩

/-- The first invalid handle and the last valid one. -/
theorem witness_HandleIsValidIffBelowCreatedCount :
    standard.nCreated ≤ (2#8).toNat ∧ (1#8).toNat < standard.nCreated ∧ standard.operands.segs = [] := by decide

/-- An empty payload (BSG5), and the state of the rule's example (BSG1). -/
theorem witness_BuildSgReturnsFrameOfPayload_corners :
    ((0#8).toNat < (standard.withSegs [[], []]).nCreated ∧ (standard.withSegs [[], []]).params.maxSegments = .unbounded ∧
      (standard.withSegs [[], []]).operands.segs.flatten = []) ∧
    (0 < standard.nCreated ∧ standard.params.maxSegments = .unbounded ∧ standard.params.crcReflected = false ∧
      3 ≤ standard.params.txMaxPayload ∧ (standard.ctx 0).p1 = 0xAA#8 ∧ (standard.ctx 0).p2 = 0x55#8) := by
  decide

/-- A payload of exactly P_TX_MAX_PAYLOAD bytes, for the last created context (BSG14). -/
theorem witness_BuildSgReturnsFrameOfPayload :
    (1#8).toNat < (standard.withSegs [List.replicate 100 0x00#8]).nCreated ∧
    segmentsExceed standard.params.maxSegments (standard.withSegs [List.replicate 100 0x00#8]).operands.segs.length = false ∧
    (standard.withSegs [List.replicate 100 0x00#8]).operands.segs.flatten.length ≤ 65535 ∧
    (standard.withSegs [List.replicate 100 0x00#8]).operands.segs.flatten.length ≤ standard.params.txMaxPayload := by
  decide

/-- Clauses 1, 2, 4 and 5 at their boundaries: handle 2; three segments of two; 101 and 100 bytes of 100. -/
theorem witness_BuildSgChecksInOrder :
    standard.nCreated ≤ (2#8).toNat ∧
    ((0#8).toNat < standard.nCreated ∧ ({ defaults with maxSegments := .atMost 2 } : Params).maxSegments = .atMost 2 ∧
      2 < ([[0x01#8], [0x02#8], [0x03#8]] : List (List Byte)).length) ∧
    ((0#8).toNat < standard.nCreated ∧ standard.params.maxSegments = .unbounded ∧
      ([List.replicate 101 0x00#8].map List.length).sum ≤ 65535 ∧
      standard.params.txMaxPayload < ([List.replicate 101 0x00#8].map List.length).sum) ∧
    ((0#8).toNat < standard.nCreated ∧ standard.params.maxSegments = .unbounded ∧
      ([List.replicate 100 0x00#8].map List.length).sum ≤ 65535 ∧
      ([List.replicate 100 0x00#8].map List.length).sum ≤ standard.params.txMaxPayload) := by
  decide

theorem long_segment (n : Nat) (hn : 65535 < n) :
    (0#8).toNat < standard.nCreated ∧
    65535 < ((standard.withSegs [List.replicate n 0x00#8]).operands.segs.map List.length).sum :=
  ⟨by decide, by simpa [State.Of.withSegs] using hn⟩

/-- Clause 3 at its boundary: 65536 bytes. -/
theorem witness_BuildSgChecksInOrder_overflow :
    (0#8).toNat < standard.nCreated ∧
    65535 < ((standard.withSegs [List.replicate 65536 0x00#8]).operands.segs.map List.length).sum :=
  long_segment 65536 (by decide)

/-- BSG1 and BSG2. -/
theorem witness_SegmentationDoesNotChangeFrame :
    ∃ t u,
      ([[0x01#8, 0x02#8], [0x03#8]] : List (List Byte)).flatten = [[0x01#8, 0x02#8, 0x03#8]].flatten ∧
      segmentsExceed standard.params.maxSegments ([[0x01#8, 0x02#8], [0x03#8]] : List (List Byte)).length =
        segmentsExceed standard.params.maxSegments ([[0x01#8, 0x02#8, 0x03#8]] : List (List Byte)).length ∧
      exec (.buildSg 0#8) (standard.withSegs [[0x01#8, 0x02#8], [0x03#8]]) = .next t ∧
      exec (.buildSg 0#8) (standard.withSegs [[0x01#8, 0x02#8, 0x03#8]]) = .next u :=
  ⟨_, _, rfl, rfl, rfl, rfl⟩

/-- `standard` with context 0 in the middle of a payload. -/
def receiving : State :=
  { standard with slots :=
      [{ createdContext 0xAA#8 0x55#8 with
          st := .data, len := 0x0003#16, hdr := headerF, hcrcExp := 0x1676#16, rx := [0x01#8, 0x02#8],
          rxCrc := crc16 defaults [0x01#8, 0x02#8] 0x0000#16, rxHeld := true },
        createdContext 0x7E#8 0x81#8] }

theorem receiving_inv : receiving.Inv := ⟨by decide, by decide, by decide, by decide +kernel⟩

theorem witness_BuildSgNeitherWritesNorReadsReceiveState :
    ∃ s' t',
      standard.params = receiving.params ∧ standard.nCreated = receiving.nCreated ∧
      standard.operands = receiving.operands ∧ (standard.ctx 0).p1 = (receiving.ctx 0).p1 ∧
      (standard.ctx 0).p2 = (receiving.ctx 0).p2 ∧
      exec (.buildSg 0#8) standard = .next s' ∧ exec (.buildSg 0#8) receiving = .next t' :=
  ⟨_, _, rfl, rfl, rfl, rfl, rfl, rfl, rfl⟩

/-- The first invalid handle, a valid one, and the state of the rule's example. -/
theorem witness_FeedRunsEveryByteThroughContext :
    standard.nCreated ≤ (2#8).toNat ∧ (1#8).toNat < standard.nCreated ∧
    standard.Inv ∧ 0 < standard.nCreated ∧ standard.params.crcReflected = false ∧ 3 ≤ standard.params.maxPayload ∧
    (standard.ctx 0).p1 = 0xAA#8 ∧ (standard.ctx 0).p2 = 0x55#8 ∧ (standard.ctx 0).st = .seekP1 :=
  ⟨by decide, by decide, standard_inv, by decide⟩

theorem witness_EmptyFeedChangesNothing :
    receiving.Inv ∧ (0#8).toNat < receiving.nCreated ∧ receiving.operands.data = [] :=
  ⟨receiving_inv, by decide, rfl⟩

/-- A context AA 55 in a given state of the search. -/
def searching (st : ParseState) : Context := { createdContext 0xAA#8 0x55#8 with st := st }

/-- Every clause; the clauses of SEEK_P2 also for a context with equal preambles, where only the first applies. -/
theorem witness_PreambleSearchSteps :
    ((searching .seekP1).st = .seekP1 ∧ 0xAA#8 = (searching .seekP1).p1 ∧ 0x55#8 ≠ (searching .seekP1).p1) ∧
    ((searching .seekP2).st = .seekP2 ∧ 0x55#8 = (searching .seekP2).p2) ∧
    (0xAA#8 ≠ (searching .seekP2).p2 ∧ 0xAA#8 = (searching .seekP2).p1) ∧
    (0x00#8 ≠ (searching .seekP2).p2 ∧ 0x00#8 ≠ (searching .seekP2).p1) := by
  decide

theorem witness_HeaderBytesAreStagedInOrder :
    (searching .lenHi).st = .lenHi ∧ (searching .lenLo).st = .lenLo ∧ (searching .dcrcHi).st = .dcrcHi ∧
    (searching .dcrcLo).st = .dcrcLo ∧ (searching .hcrcHi).st = .hcrcHi := by
  decide

/-- A context that has staged the first seven bytes of a header: length `len`, data CRC bytes `b4`, `b5`, and `b6`. -/
def atHcrcLo (len : U16) (b4 b5 b6 : Byte) : Context :=
  { createdContext 0xAA#8 0x55#8 with
    st := .hcrcLo, len := len
    hdr := ⟨0xAA#8, 0x55#8, len.extractLsb' 8 8, len.extractLsb' 0 8, b4, b5, b6, 0x00#8⟩
    hcrcExp := join16 b6 0x00#8, rxHeld := true }

/-- The condition under which a header matches (R170). -/
abbrev matchesAt (c : Context) (b : Byte) : Prop :=
  c.st = .hcrcLo ∧
  crc16 defaults [c.hdr.b0, c.hdr.b1, c.hdr.b2, c.hdr.b3, c.hdr.b4, c.hdr.b5] 0x0000#16 = c.hcrcExp ||| b.zeroExtend 16

/-- F's header, and F's header with its last byte wrong by one bit. -/
theorem witness_HeaderCrcMismatchRestartsSearch :
    (atHcrcLo 0x0003#16 0x61#8 0x31#8 0x16#8).st = .hcrcLo ∧
    matchesAt (atHcrcLo 0x0003#16 0x61#8 0x31#8 0x16#8) 0x76#8 ∧
    ¬ matchesAt (atHcrcLo 0x0003#16 0x61#8 0x31#8 0x16#8) 0x77#8 := by
  decide +kernel

/-- Each clause: L (17 bytes, one above the capacity), Z, FD6's header, and F's and BSG12's (16 bytes, the capacity). -/
theorem witness_MatchedHeaderIsValidatedAndAccepted :
    (matchesAt (atHcrcLo 0x0011#16 0x00#8 0x00#8 0x25#8) 0x1C#8 ∧ defaults.maxPayload < (0x0011#16).toNat) ∧
    (matchesAt (atHcrcLo 0x0000#16 0x00#8 0x00#8 0x51#8) 0x4F#8 ∧ join16 0x00#8 0x00#8 = 0x0000#16) ∧
    (matchesAt (atHcrcLo 0x0000#16 0x12#8 0x34#8 0x42#8) 0x89#8 ∧ join16 0x12#8 0x34#8 ≠ 0x0000#16) ∧
    (matchesAt (atHcrcLo 0x0010#16 0x51#8 0x3D#8 0xC8#8) 0x5C#8 ∧ (0x0010#16).toNat ≤ defaults.maxPayload) ∧
    ((atHcrcLo 0x0003#16 0x61#8 0x31#8 0x16#8).rxHeld = true ∧
      (rxStep defaults (atHcrcLo 0x0003#16 0x61#8 0x31#8 0x16#8) 0#8 tok 0x76#8).1.rxHeld = false) ∧
    (∃ c' e, ({ defaults with maxPayload := 65535 } : Params).maxPayload = 65535 ∧
      rxStep { defaults with maxPayload := 65535 } (atHcrcLo 0x0000#16 0x00#8 0x00#8 0x51#8) 0#8 tok 0x4F#8 = (c', some e)) := by
  refine ⟨by decide +kernel, by decide +kernel, by decide +kernel, by decide +kernel, by decide +kernel, ?_⟩
  exact ⟨(rxStep { defaults with maxPayload := 65535 } (atHcrcLo 0x0000#16 0x00#8 0x00#8 0x51#8) 0#8 tok 0x4F#8).1,
    validDataEvent 0#8 tok ⟨0xAA#8, 0x55#8, 0x00#8, 0x00#8, 0x00#8, 0x00#8, 0x51#8, 0x4F#8⟩ [], rfl, by decide +kernel⟩

/-- F's payload: not its last byte; its last byte; a wrong last byte. -/
theorem witness_PayloadIsCollectedAndChecked :
    (receiving.ctx 0).st = .data ∧
    ({ receiving.ctx 0 with rx := [0x01#8] } : Context).rx.length + 1 ≠ (receiving.ctx 0).len.toNat ∧
    (receiving.ctx 0).rx.length + 1 = (receiving.ctx 0).len.toNat ∧
    crcStep defaults (receiving.ctx 0).rxCrc 0x03#8 = join16 headerF.b4 headerF.b5 ∧
    crcStep defaults (receiving.ctx 0).rxCrc 0x02#8 ≠ join16 headerF.b4 headerF.b5 := by
  decide +kernel

/-- An event of each sort: VALID_DATA, and one without payload. -/
theorem witness_OnlyValidDataCarriesHeaderAndPayload :
    ∃ c' d', ContextInv defaults (receiving.ctx 0) ∧
      rxStep defaults (receiving.ctx 0) 0#8 tok 0x03#8 =
        (c', some (validDataEvent 0#8 tok headerF [0x01#8, 0x02#8, 0x03#8])) ∧
      rxStep defaults (receiving.ctx 0) 0#8 tok 0x02#8 = (d', some (plainEvent 0#8 tok .dataCrcError)) :=
  ⟨(rxStep defaults (receiving.ctx 0) 0#8 tok 0x03#8).1, (rxStep defaults (receiving.ctx 0) 0#8 tok 0x02#8).1,
    by decide +kernel, by decide +kernel, by decide +kernel⟩

/-- One event of each error kind, DATA_CRC_ERROR both ways, each from a context that meets the invariant. -/
theorem witness_ErrorEventsHaveTheirCauses :
    ∀ p ∈ [(atHcrcLo 0x0003#16 0x61#8 0x31#8 0x16#8, 0x77#8, EventKind.headerCrcError),
        (atHcrcLo 0x0011#16 0x00#8 0x00#8 0x25#8, 0x1C#8, .packetLengthError),
        (atHcrcLo 0x0000#16 0x12#8 0x34#8 0x42#8, 0x89#8, .dataCrcError),
        (receiving.ctx 0, 0x02#8, .dataCrcError)],
      ContextInv defaults p.1 ∧ (rxStep defaults p.1 0#8 tok p.2.1).2 = some (plainEvent 0#8 tok p.2.2) := by
  decide +kernel

theorem witness_ChunkingDoesNotMatter : receiving.Inv ∧ (1#8).toNat < receiving.nCreated := ⟨receiving_inv, by decide⟩

/-- A FEED of the other context, and a FEED of no bytes. -/
theorem witness_ContextStallsUntilFed :
    ∃ t u, (issuing standard 0x30010000#32 ⟨tok, frameF, []⟩).Inv ∧ (0#8).toNat < standard.nCreated ∧
      step (issuing standard 0x30010000#32 ⟨tok, frameF, []⟩) = .next t ∧ decode 0x30010000#32 ≠ .legal (.feed 0#8) ∧
      step (issuing standard 0x30000000#32 Bundle.empty) = .next u ∧ (Bundle.empty : Bundle).data = [] ∧ standard.pending = [] :=
  ⟨_, _, standard_inv, by decide, rfl, by decide, rfl, rfl, rfl⟩

/-- `standard` with context 0 one byte into a preamble. -/
def halfPreamble : State := { standard with slots := [searching .seekP2, createdContext 0x7E#8 0x81#8] }

/-- Both clauses: FD9's bytes AA 00 55, and a preamble_2 byte fed in SEEK_P2. -/
theorem witness_SilenceWithoutPreamble :
    (standard.Inv ∧ (0#8).toNat < standard.nCreated ∧ (standard.ctx 0).st = .seekP1 ∧
      NoPreamble (standard.ctx 0).p1 (standard.ctx 0).p2 (standard.withFeed tok [0xAA#8, 0x00#8, 0x55#8]).operands.data) ∧
    (halfPreamble.Inv ∧ (0#8).toNat < halfPreamble.nCreated ∧ (halfPreamble.ctx 0).st = .seekP2 ∧
      (halfPreamble.withFeed tok [0x55#8, 0x00#8]).operands.data = (halfPreamble.ctx 0).p2 :: [0x00#8]) := by
  refine ⟨⟨standard_inv, by decide, by decide, fun i h => ?_⟩, ⟨by decide, by decide, by decide, by decide⟩, by decide⟩
  match i, h with
  | 0, h => exact absurd h (by decide)
  | 1, h => exact absurd h (by decide)
  | 2, h => exact absurd h (by decide)
  | n + 3, h => exact absurd h.1 (by simp [State.Of.withFeed])

/-- F, at its first and last byte and the edges of its parts, with the first and last bit. -/
theorem witness_SingleBitErrorsAreCaught :
    standard.Inv ∧ (0#8).toNat < standard.nCreated ∧ (standard.ctx 0).st = .seekP1 ∧
    ValidFrame standard.params (standard.ctx 0) frameF ∧ frameF.length - 8 ≤ standard.params.maxPayload ∧
    (∀ i ∈ [0, 1, 2, 7, 8, 10], i < frameF.length) ∧ ∀ k ∈ [0, 7], k < 8 :=
  ⟨standard_inv, by decide +kernel⟩

/-- A payload of exactly P_MAX_PAYLOAD bytes. -/
theorem witness_BuiltFrameRoundTrips :
    standard.Inv ∧ (1#8).toNat < standard.nCreated ∧ (standard.ctx 1).st = .seekP1 ∧
    segmentsExceed standard.params.maxSegments ([List.replicate 16 0x7E#8] : List (List Byte)).length = false ∧
    totalLength [List.replicate 16 0x7E#8] ≤ min standard.params.txMaxPayload standard.params.maxPayload :=
  ⟨standard_inv, by decide⟩

/-- F and F2 in two FEEDs cut inside F (FD8). -/
theorem witness_BackToBackFramesAreBothDelivered :
    standard.Inv ∧ (0#8).toNat < standard.nCreated ∧ (standard.ctx 0).st = .seekP1 ∧
    ValidFrame standard.params (standard.ctx 0) frameF ∧ frameF.length - 8 ≤ standard.params.maxPayload ∧
    ValidFrame standard.params (standard.ctx 0) frameF2 ∧ frameF2.length - 8 ≤ standard.params.maxPayload ∧
    [frameF.take 5, frameF.drop 5 ++ frameF2].flatten = frameF ++ frameF2 :=
  ⟨standard_inv, by decide +kernel⟩

theorem witness_EqualPreambleRunIsTakenAsHeader :
    (createdContext 0x7E#8 0x7E#8).st = .seekP1 ∧ (createdContext 0x7E#8 0x7E#8).p1 = 0x7E#8 ∧
    (createdContext 0x7E#8 0x7E#8).p2 = 0x7E#8 := by
  decide

/-- `standard` with another context 1. -/
def otherNeighbour : State := { standard with slots := [createdContext 0xAA#8 0x55#8, createdContext 0x01#8 0x02#8] }

/-- Each clause: a neighbour, two states that share context 0 alone, and two handles. -/
theorem witness_ContextsAreIndependent :
    (∃ t, 1 ≠ (0#8).toNat ∧ exec (.feed 0#8) standard = .next t) ∧
    (∃ s' t', standard.Inv ∧ otherNeighbour.Inv ∧ standard.params = otherNeighbour.params ∧
      standard.nCreated = otherNeighbour.nCreated ∧ standard.operands = otherNeighbour.operands ∧
      standard.ctx (0#8).toNat = otherNeighbour.ctx (0#8).toNat ∧
      exec (.feed 0#8) standard = .next s' ∧ exec (.feed 0#8) otherNeighbour = .next t') ∧
    (onHandle 0#8 (.feed 0#8 tok frameF) ∧ onHandle 1#8 (.buildSg 1#8 [[0x01#8]]) ∧ 0#8 ≠ 1#8) :=
  ⟨⟨_, by decide, rfl⟩, ⟨_, _, standard_inv, ⟨by decide, by decide, by decide, by decide⟩, rfl, rfl, rfl, rfl, rfl, rfl⟩, .inl rfl, .inr rfl, by decide⟩

theorem witness_CommandsChangeOnlyWhatTheyName :
    (∃ t, exec (.create 0x01#8 0x02#8) halfFull = .next t) ∧ (∃ t, exec (.feed 1#8) receiving = .next t) ∧
    (∃ t, exec (.crc 0xFFFF#16) receiving = .next t) ∧ (∃ t, exec (.buildSg 0#8) receiving = .next t) :=
  ⟨⟨_, rfl⟩, ⟨_, rfl⟩, ⟨_, rfl⟩, ⟨_, rfl⟩⟩

/-- Two states whose uncreated slot 1 differs. -/
theorem witness_UncreatedSlotsAreUnobservable :
    SameCreated halfFull { halfFull with slots := [createdContext 0xAA#8 0x55#8, createdContext 0x12#8 0x34#8] } ∧
    halfFull ≠ { halfFull with slots := [createdContext 0xAA#8 0x55#8, createdContext 0x12#8 0x34#8] } := by
  constructor
  · exact ⟨rfl, rfl, rfl, rfl, rfl, rfl, by decide⟩
  · decide

/-- Two contexts that differ in every field the current frame has not written. -/
theorem witness_StaleReceiveFieldsAreUnobservable :
    SameLive (searching .seekP1)
      { searching .seekP1 with
        len := 0xFFFF#16, hdr := headerF, hcrcExp := 0x1676#16, rx := [0x01#8], rxCrc := 0x1021#16, rxHeld := true } := by
  refine ⟨rfl, rfl, rfl, rfl, ?_, ?_, ?_⟩ <;> intro h <;> exact absurd h (by decide)

/-- With any other token, should this machine have one. -/
theorem witness_TokenIsOnlyCopied :
    ∀ other : Token, ∃ t u, exec (.feed 0#8) (standard.withFeed tok frameF) = .next t ∧
      exec (.feed 0#8) (standard.withFeed other frameF) = .next u :=
  fun _ => ⟨_, _, rfl, rfl⟩

theorem witness_ResetMeetsInvariant : defaults.wf = true := by decide

/-- A CREATE of the last free slot. -/
theorem witness_EveryStepKeepsInvariant :
    ∃ t, (issuing halfFull 0x10000102#32 Bundle.empty).Inv ∧ step (issuing halfFull 0x10000102#32 Bundle.empty) = .next t :=
  ⟨_, halfFull_inv, rfl⟩

/-- The step that completes F delivers it. -/
theorem witness_OnlyValidFramesAreDelivered :
    ∃ t, (issuing receiving 0x30000000#32 ⟨tok, [0x03#8], []⟩).Inv ∧
      step (issuing receiving 0x30000000#32 ⟨tok, [0x03#8], []⟩) = .next t ∧
      validDataEvent 0#8 tok headerF [0x01#8, 0x02#8, 0x03#8] ∈
        newEvents (issuing receiving 0x30000000#32 ⟨tok, [0x03#8], []⟩) t ∧
      (validDataEvent 0#8 tok headerF [0x01#8, 0x02#8, 0x03#8]).kind = .validData :=
  ⟨_, receiving_inv, rfl, by decide +kernel, rfl⟩

end Sys2Proof.Tests
end

section
/-!
PROOFS. The preambles of a context (R25): CREATE writes them, and no command rewrites them in a created context.
-/

namespace Sys2Proof.Machine

variable {TOKEN : Type}

/-- A slot read after a write holds what it held before, or it is the slot written and holds the new value. -/
theorem State.Of.setCtx_ctx_cases (s : State.Of TOKEN) (h k : Nat) (c : Context) :
    (s.setCtx h c).ctx k = s.ctx k ∨ (k = h ∧ (s.setCtx h c).ctx k = c) := by
  by_cases hk : k = h
  · subst hk
    by_cases hl : k < s.slots.length
    · exact .inr ⟨rfl, s.setCtx_ctx_self k c hl⟩
    · exact .inl (by simp [State.Of.ctx, hl])
  · exact .inl (s.setCtx_ctx_of_ne h k c hk)

/-- No chunk rewrites the configured preambles (R25). -/
theorem feedBytes_preambles (P : Params) (c : Context) (h : Handle) (tok : TOKEN) (bs : List Byte) :
    (feedBytes P c h tok bs).1.p1 = c.p1 ∧ (feedBytes P c h tok bs).1.p2 = c.p2 := by
  induction bs generalizing c with
  | nil => exact ⟨rfl, rfl⟩
  | cons b bs ih =>
    obtain ⟨first1, first2⟩ := rxStep_preambles (P := P) (c := c) (h := h) (tok := tok) (b := b)
    obtain ⟨rest1, rest2⟩ := ih (rxStep P c h tok b).1
    rw [feedBytes_cons]
    exact ⟨rest1.trans first1, rest2.trans first2⟩

/-- From `s` to `t` every created context stays created and keeps its preambles (R25). -/
def KeepsPreambles (s t : State.Of TOKEN) : Prop :=
  ∀ k < s.nCreated, k < t.nCreated ∧ (t.ctx k).p1 = (s.ctx k).p1 ∧ (t.ctx k).p2 = (s.ctx k).p2

/-- Returning a response touches no context. -/
theorem keepsPreambles_respond (s : State.Of TOKEN) (r : Response.Of TOKEN) : KeepsPreambles s (s.respond r) :=
  fun _ hk => ⟨hk, rfl, rfl⟩

/-- Writing a slot with its own preambles keeps every preamble. -/
theorem keepsPreambles_setCtx (s : State.Of TOKEN) (h : Nat) (c : Context) (h1 : c.p1 = (s.ctx h).p1)
    (h2 : c.p2 = (s.ctx h).p2) : KeepsPreambles s (s.setCtx h c) := by
  intro k hk
  refine ⟨hk, ?_⟩
  rcases s.setCtx_ctx_cases h k c with e | ⟨rfl, e⟩ <;> rw [e]
  · exact ⟨rfl, rfl⟩
  · exact ⟨h1, h2⟩

/-- CREATE writes only the slot past the created ones. -/
theorem execCreate_keepsPreambles {s t : State.Of TOKEN} {p1 p2 : Byte} (ht : execCreate p1 p2 s = .next t) :
    KeepsPreambles s t := by
  rcases execCreate_cases p1 p2 s with ⟨-, e⟩ | ⟨-, e⟩ <;> cases e.symm.trans ht
  · exact keepsPreambles_respond s _
  · intro k hk
    have hslot := s.setCtx_ctx_of_ne s.nCreated k (createdContext p1 p2) hk.ne
    exact ⟨Nat.lt_succ_of_lt hk, congrArg Context.p1 hslot, congrArg Context.p2 hslot⟩

/-- FEED writes only the context it feeds, and the receiver does not rewrite its preambles. -/
theorem execFeed_keepsPreambles {s t : State.Of TOKEN} {h : Handle} (ht : execFeed h s = .next t) :
    KeepsPreambles s t := by
  rcases execFeed_cases h s with ⟨-, e⟩ | ⟨-, e⟩ <;> cases e.symm.trans ht
  · exact keepsPreambles_respond s _
  · obtain ⟨h1, h2⟩ :=
      feedBytes_preambles s.params (s.ctx h.toNat) h s.operands.token s.operands.data
    exact keepsPreambles_setCtx s h.toNat _ h1 h2

/-- BUILD_SG does nothing but return a response (R149). -/
theorem execBuildSg_respond (h : Handle) (s : State.Of TOKEN) : ∃ r, execBuildSg h s = .next (s.respond r) := by
  rcases execBuildSg_cases h s with ⟨-, e⟩ | ⟨-, -, e⟩ | ⟨-, -, -, e⟩ | ⟨-, -, -, -, e⟩ | ⟨-, -, -, -, e⟩ <;>
    exact ⟨_, e⟩

/-- CRC does nothing but return a response (R60). -/
theorem execCrc_respond (start : U16) (s : State.Of TOKEN) : ∃ r, execCrc start s = .next (s.respond r) := ⟨_, rfl⟩

/-- Every command keeps the preambles of the created contexts. -/
theorem exec_keepsPreambles {s t : State} {i : Instr} (ht : exec i s = .next t) : KeepsPreambles s t := by
  cases i with
  | create p1 p2 => exact execCreate_keepsPreambles ht
  | crc start =>
    obtain ⟨r, e⟩ := execCrc_respond start s
    cases e.symm.trans ht
    exact keepsPreambles_respond s r
  | feed h => exact execFeed_keepsPreambles ht
  | buildSg h =>
    obtain ⟨r, e⟩ := execBuildSg_respond h s
    cases e.symm.trans ht
    exact keepsPreambles_respond s r

/-- A step that takes a command, legal or illegal, keeps the preambles of the created contexts. -/
theorem step_command_keepsPreambles {s t : State} {w : U32} {ops : Bundle} {rest : List HostInput}
    (hp : s.pending = .command w ops :: rest) (ht : step s = .next t) : KeepsPreambles s t := by
  rcases step_cases s with ⟨hp', -⟩ | ⟨_, hp', -⟩ | ⟨_, ops', rest', i, -, -, e⟩ | ⟨_, _, rest', _, -, -, e⟩
  · exact absurd (hp.symm.trans hp') (by simp)
  · exact absurd (hp.symm.trans hp') (by simp)
  · have hkeep : KeepsPreambles (s.accept ops' rest') t := exec_keepsPreambles (e.symm.trans ht)
    exact hkeep
  · cases e.symm.trans ht
    exact fun _ hk => ⟨hk, rfl, rfl⟩

/-- A CREATE that finds a free slot leaves its context in slot `n_created`. -/
theorem execCreate_ctx_nCreated {s t : State.Of TOKEN} {p1 p2 : Byte} (hslot : s.nCreated < s.slots.length)
    (hfree : s.nCreated ≠ s.params.maxInstances) (ht : execCreate p1 p2 s = .next t) :
    t.ctx s.nCreated = createdContext p1 p2 := by
  rcases execCreate_cases p1 p2 s with ⟨hfull, -⟩ | ⟨-, e⟩
  · exact absurd hfull hfree
  · cases e.symm.trans ht
    exact s.setCtx_ctx_self s.nCreated (createdContext p1 p2) hslot

/-- Settles O29: CREATE initialises slot `n_created` from its operands, and every step that takes a command keeps the
preambles of the created contexts. -/
theorem preamblesAreWrittenOnce : Obligations.PreamblesAreWrittenOnce := by
  unfold Obligations.PreamblesAreWrittenOnce
  refine ⟨?written, ?kept⟩
  case written =>
    intro s t p1 p2 ⟨_, hslots, hle, _⟩ hfree ht
    have hslot : s.nCreated < s.slots.length := hslots ▸ lt_of_le_of_ne hle hfree
    have hctx : t.ctx s.nCreated = createdContext p1 p2 := execCreate_ctx_nCreated hslot hfree ht
    rw [hctx]
    exact ⟨rfl, rfl⟩
  case kept =>
    intro s t w ops rest h _ hp ht hh
    exact step_command_keepsPreambles hp ht h hh

end Sys2Proof.Machine
end

section
/-!
PROOFS. Contexts are independent (R63): what a FEED or BUILD_SG on a handle returns and leaves is settled by the parameters,
`n_created`, its operands and its own context, and it writes no other context.
-/

namespace Sys2Proof.Machine

variable {TOKEN : Type}

/-- `t` agrees with `s` on everything a FEED or BUILD_SG on `h` reads (R60). -/
structure SameAt (h : Handle) (s t : State.Of TOKEN) : Prop where
  params : t.params = s.params
  nCreated : t.nCreated = s.nCreated
  operands : t.operands = s.operands
  ctx : t.ctx h.toNat = s.ctx h.toNat

theorem SameAt.refl (h : Handle) (s : State.Of TOKEN) : SameAt h s s := ⟨rfl, rfl, rfl, rfl⟩

/-- In every state that agrees with `s` on what a command on `h` reads, `i` leaves `c` in context `h`, returns `r` and
changes nothing else. -/
def ActsAlike (h : Handle) (i : Instr) (s : State) (c : Context) (r : Response) : Prop :=
  ∀ t, SameAt h s t → exec i t = .next ((t.setCtx h.toNat c).respond r)

/-- FEED reads and writes no context but its own. -/
theorem execFeed_actsAlike (h : Handle) (s : State) : ∃ c r, ActsAlike h (.feed h) s c r := by
  rcases execFeed_cases h s with ⟨hv, -⟩ | ⟨hv, -⟩
  · refine ⟨s.ctx h.toNat, { status := .invalidInstance, result := none }, fun t same => ?_⟩
    rcases execFeed_cases h t with ⟨-, e⟩ | ⟨hv', -⟩
    · rw [← same.ctx, State.Of.setCtx_ctx_eq_self]
      exact e
    · exact absurd hv' (Nat.not_lt.mpr (same.nCreated ▸ hv))
  · let fed := feedBytes s.params (s.ctx h.toNat) h s.operands.token s.operands.data
    refine ⟨fed.1, { status := .ok, result := some (.events fed.2) }, fun t same => ?_⟩
    rcases execFeed_cases h t with ⟨hv', -⟩ | ⟨-, e⟩
    · exact absurd hv (Nat.not_lt.mpr (same.nCreated ▸ hv'))
    · rw [same.params, same.ctx, same.operands] at e
      exact e

/-- The response of BUILD_SG, a conditional of its checks (R148), is the same wherever they and its frame read the same. -/
theorem execBuildSg_same (h : Handle) (s : State.Of TOKEN) :
    ∃ r, ∀ t, SameAt h s t → execBuildSg h t = .next (t.respond r) := by
  apply Exists.intro
  rintro t ⟨hparams, hn, hops, hctx⟩
  simp only [execBuildSg, State.Of.validHandle, State.Of.segsOperand, hparams, hn, hops, hctx, failWith_eq,
    completeOk_eq, ← apply_ite t.respond, ← apply_ite Host.Outcome.next]
  rfl

/-- BUILD_SG reads no context but its own, and writes none. -/
theorem execBuildSg_actsAlike (h : Handle) (s : State) : ∃ c r, ActsAlike h (.buildSg h) s c r := by
  obtain ⟨r, hr⟩ := execBuildSg_same h s
  refine ⟨s.ctx h.toNat, r, fun t same => ?_⟩
  rw [← same.ctx, State.Of.setCtx_ctx_eq_self]
  exact hr t same

/-- A FEED or BUILD_SG on `h` reads and writes no context but `h`. -/
theorem exec_actsAlike {h : Handle} {i : Instr} (hi : i = .feed h ∨ i = .buildSg h) (s : State) :
    ∃ c r, ActsAlike h i s c r := by
  rcases hi with rfl | rfl
  · exact execFeed_actsAlike h s
  · exact execBuildSg_actsAlike h s

/-- What a command on `h` did, read off the state it ended in. -/
theorem ActsAlike.eq_of_next {h : Handle} {i : Instr} {s t t' : State} {c : Context} {r : Response}
    (acts : ActsAlike h i s c r) (same : SameAt h s t) (ht : exec i t = .next t') :
    t' = (t.setCtx h.toNat c).respond r := by
  cases (acts t same).symm.trans ht
  rfl

/-- The response just returned is all a command has added. -/
theorem newResponses_respond {s t : State} (r : Response) (ht : t.responses = s.responses) :
    newResponses s (t.respond r) = [r] := by
  simp [newResponses, ht]

/-- What a slot reads after it is written depends on the number of slots and on the value written. -/
theorem State.Of.setCtx_ctx_self_congr {s t : State.Of TOKEN} (hl : s.slots.length = t.slots.length) (h : Nat)
    (c : Context) : (s.setCtx h c).ctx h = (t.setCtx h c).ctx h := by
  simp [State.Of.ctx, List.getElem?_set, hl]

/-- The word of a FEED or BUILD_SG decodes to it. -/
theorem decode_encode_onHandle {h : Handle} {i : Instr} (hi : i = .feed h ∨ i = .buildSg h) :
    decode (encode i) = .legal i := by
  rcases hi with rfl | rfl <;> simp [decode, encode, opCreate, opCrc, opFeed, opBuildSg]

/-- With a FEED or BUILD_SG at the head of the port, a step does what that command does with its bundle as operands. -/
theorem step_actsAlike {h : Handle} {a : AsmCommand} {s t : State} {rest : List HostInput} {c : Context} {r : Response}
    (ha : onHandle h a) (acts : ActsAlike h a.instr s c r) (hp : t.pending = asmInput a :: rest)
    (same : SameAt h s (t.accept a.bundle rest)) :
    step t = .next (((t.accept a.bundle rest).setCtx h.toNat c).respond r) := by
  rw [← acts _ same]
  simp [step, hp, asmInput, AsmCommand.Of.word, decode_encode_onHandle ha]

/-- A run of two steps, from what each step does. -/
theorem run_two {s t u : State} (hs : step s = .next t) (ht : step t = .next u) : core.run 2 s = .next u := by
  simp only [Host.Core.run, core, hs, ht]

/-- Two commands on different handles, one after the other, each do to their own context what they do alone. -/
theorem run_pair_onHandles {s : State} {g h : Handle} {a b : AsmCommand} {c d : Context} {r q : Response}
    (ha : onHandle g a) (hb : onHandle h b) (hgh : g.toNat ≠ h.toNat)
    (actsA : ActsAlike g a.instr (s.accept a.bundle []) c r) (actsB : ActsAlike h b.instr (s.accept b.bundle []) d q) :
    ∃ t, core.run 2 (s.withCommands [a, b]) = .next t ∧ newResponses s t = [r, q] ∧
      t.slots = (s.slots.set g.toNat c).set h.toNat d ∧ t.nCreated = s.nCreated := by
  have hctx : (s.setCtx g.toNat c).ctx h.toNat = s.ctx h.toNat := s.setCtx_ctx_of_ne _ _ c hgh.symm
  have first := step_actsAlike (t := s.withCommands [a, b]) ha actsA rfl ⟨rfl, rfl, rfl, rfl⟩
  refine ⟨_, run_two first (step_actsAlike hb actsB rfl ⟨rfl, rfl, rfl, hctx⟩), ?_, rfl, rfl⟩
  simp [newResponses, State.Of.withCommands]

/-- Settles O53: a FEED or BUILD_SG acts alike wherever its own context is the same, so it touches no other context, and two
on different handles commute. -/
theorem contextsAreIndependent : Obligations.ContextsAreIndependent := by
  unfold Obligations.ContextsAreIndependent
  refine ⟨?writesNoOther, ?readsNoOther, ?commute⟩
  case writesNoOther =>
    intro s t h k hk ht
    obtain ⟨i, hi, ht⟩ : ∃ i, (i = .feed h ∨ i = .buildSg h) ∧ exec i s = .next t :=
      ht.elim (⟨_, .inl rfl, ·⟩) (⟨_, .inr rfl, ·⟩)
    obtain ⟨c, r, acts⟩ := exec_actsAlike hi s
    rw [acts.eq_of_next (.refl h s) ht]
    exact s.setCtx_ctx_of_ne _ k c hk
  case readsNoOther =>
    intro s t s' t' h i hi ⟨_, hslots, _⟩ ⟨_, tslots, _⟩ hparams hn hops hctx hs ht
    obtain ⟨c, r, acts⟩ := exec_actsAlike hi s
    rw [acts.eq_of_next (.refl h s) hs, acts.eq_of_next ⟨hparams.symm, hn.symm, hops.symm, hctx.symm⟩ ht]
    have hl : s.slots.length = t.slots.length := by rw [hslots, tslots, hparams]
    exact ⟨(newResponses_respond r rfl).trans (newResponses_respond r rfl).symm,
      State.Of.setCtx_ctx_self_congr hl h.toNat c⟩
  case commute =>
    intro s g h a b ha hb hne
    have hgh : g.toNat ≠ h.toNat := BitVec.toNat_ne.mp hne
    obtain ⟨c, r, actsA⟩ := exec_actsAlike ha (s.accept a.bundle [])
    obtain ⟨d, q, actsB⟩ := exec_actsAlike hb (s.accept b.bundle [])
    obtain ⟨t, runAB, respAB, slotsAB, nAB⟩ := run_pair_onHandles ha hb hgh actsA actsB
    obtain ⟨u, runBA, respBA, slotsBA, nBA⟩ := run_pair_onHandles hb ha hgh.symm actsB actsA
    refine ⟨t, u, r, q, runAB, runBA, respAB, respBA, ?_, nAB.trans nBA.symm⟩
    rw [slotsAB, slotsBA, List.set_comm _ _ hgh]

end Sys2Proof.Machine
end

section
/-!
PROOFS. The decoder and the encoder are inverse to each other, the decoder follows the rows of the opcode table (R85), and the
words it finds illegal are the reserved space (R86, R93).
-/

namespace Sys2Proof

/-- IMM16 is its high byte P1 and its low byte P2 (R84). -/
theorem join16_p1Field_p2Field (w : U32) : Machine.join16 (p1Field w) (p2Field w) = immField w := by
  rw [Machine.join16_eq_append, p1Field_eq, p2Field_eq]
  exact BitVec.extractLsb'_append_extractLsb'

@[simp] theorem p1Field_commandWord (op : BitVec 4) (h : Handle) (p1 p2 : Byte) :
    p1Field (commandWord op h (Machine.join16 p1 p2)) = p1 := by
  rw [p1Field_eq, immField_commandWord, Machine.join16_eq_append]
  exact BitVec.extractLsb'_append_eq_left

@[simp] theorem p2Field_commandWord (op : BitVec 4) (h : Handle) (p1 p2 : Byte) :
    p2Field (commandWord op h (Machine.join16 p1 p2)) = p2 := by
  rw [p2Field_eq, immField_commandWord, Machine.join16_eq_append]
  exact BitVec.extractLsb'_append_eq_right

theorem encode_create (p1 p2 : Byte) : encode (.create p1 p2) = commandWord opCreate 0#8 (Machine.join16 p1 p2) := rfl

/-- The word of an instruction decodes to it. -/
theorem decode_encode (i : Instr) : decode (encode i) = .legal i := by
  cases i with
  | create p1 p2 => simp [decode, encode_create]
  | crc start => simp [decode, encode, opCreate, opCrc]
  | feed h => simp [decode, encode, opCreate, opCrc, opFeed]
  | buildSg h => simp [decode, encode, opCreate, opCrc, opFeed, opBuildSg]

/-- A word with RSV zero is the command word of what its other fields hold. -/
theorem eq_commandWord {w : U32} {op : BitVec 4} {h : Handle} {imm : U16} (hr : rsvField w = 0#4) (ho : opField w = op)
    (hh : handleField w = h) (hi : immField w = imm) : w = commandWord op h imm := by
  rw [← ho, ← hh, ← hi, commandWord_of_fields w hr]

/-- A word that decodes is the word of its meaning: each of the four legal exits of `decode` has fixed every field but the
operands. -/
theorem eq_encode_of_decode {w : U32} {i : Instr} (hd : decode w = .legal i) : w = encode i := by
  unfold decode at hd
  split_ifs at hd with hr ho hh ho hh ho hi ho hi <;> cases hd <;> rw [not_not] at hr
  · exact eq_commandWord hr ho (not_not.mp hh) (join16_p1Field_p2Field w).symm
  · exact eq_commandWord hr ho (not_not.mp hh) rfl
  · exact eq_commandWord hr ho rfl (not_not.mp hi)
  · exact eq_commandWord hr ho rfl (not_not.mp hi)

theorem decode_eq_legal_iff (w : U32) (i : Instr) : decode w = .legal i ↔ w = encode i :=
  ⟨eq_encode_of_decode, fun hw => hw ▸ decode_encode i⟩

/-- Every instruction's word selects the row of its mnemonic (R85). -/
theorem tableRow_encode (i : Instr) : Laws.TableRow.Statement i := by
  cases i with
  | create p1 p2 => exact Laws.TableRow.create p1 p2
  | crc start => exact Laws.TableRow.crc start
  | feed h => exact Laws.TableRow.feed h
  | buildSg h => exact Laws.TableRow.buildSg h

theorem row_eq_of_mnemonic_eq :
    ∀ r ∈ opcodeTable, ∀ q ∈ opcodeTable, r.mnemonic = q.mnemonic → r = q := by decide

theorem row_eq_of_opField_eq :
    ∀ r ∈ opcodeTable, ∀ q ∈ opcodeTable, opField r.pattern = opField q.pattern → r = q := by decide

theorem opField_mask_eq_allOnes : ∀ r ∈ opcodeTable, opField r.mask = BitVec.allOnes 4 := by decide

theorem OpcodeRow.selects_iff (r : OpcodeRow) (w : U32) : r.selects w = true ↔ w &&& r.mask = r.pattern := by
  simp [OpcodeRow.selects]

/-- The row a word selects has the word's opcode: no mask leaves out a bit of OP. -/
theorem opField_of_selects {r : OpcodeRow} {w : U32} (hr : r ∈ opcodeTable) (hs : r.selects w = true) :
    opField w = opField r.pattern := by
  calc opField w = opField w &&& opField r.mask := by rw [opField_mask_eq_allOnes r hr, BitVec.and_allOnes]
    _ = opField (w &&& r.mask) := BitVec.extractLsb'_and.symm
    _ = opField r.pattern := by rw [(r.selects_iff w).mp hs]

/-- The word of an instruction selects any row that has its mnemonic. -/
theorem selects_encode_of_mnemonic {r : OpcodeRow} {i : Instr} (hr : r ∈ opcodeTable) (hm : i.mnemonic = r.mnemonic) :
    r.selects (encode i) = true := by
  obtain ⟨-, q, hq, hqm, hqs⟩ := tableRow_encode i
  rw [row_eq_of_mnemonic_eq r hr q hq (hm.symm.trans hqm.symm)]
  exact hqs

/-- Two words that agree on the bits of a mask and on the bits outside it are equal. -/
theorem eq_of_and_eq_of_and_not_eq {n : Nat} {x y m : BitVec n} (hin : x &&& m = y &&& m)
    (hout : x &&& ~~~m = y &&& ~~~m) : x = y := by
  have parts (z : BitVec n) : z = z &&& m ||| z &&& ~~~m := by
    rw [← BitVec.and_or_distrib_left, BitVec.or_not_self, BitVec.and_allOnes]
  rw [parts x, parts y, hin, hout]

/-- Settles O3: a word that selects the row of `i` and has the operands of `i` outside the mask is `encode i` on both sides of
the mask; and OP alone tells the rows apart. -/
theorem decoderFollowsOpcodeTable : Obligations.DecoderFollowsOpcodeTable := by
  unfold Obligations.DecoderFollowsOpcodeTable
  refine ⟨fun w i => ?decodes, fun w r hr q hq hrs hqs => ?unique⟩
  case decodes =>
    rw [decode_eq_legal_iff]
    constructor
    · rintro rfl
      obtain ⟨-, r, hr, hm, hs⟩ := tableRow_encode i
      exact ⟨r, hr, hs, hm.symm, rfl⟩
    · rintro ⟨r, hr, hs, hm, hfree⟩
      have hi : r.selects (encode i) = true := selects_encode_of_mnemonic hr hm
      rw [OpcodeRow.selects_iff] at hs hi
      exact eq_of_and_eq_of_and_not_eq (hs.trans hi.symm) hfree.symm
  case unique =>
    exact row_eq_of_opField_eq r hr q hq ((opField_of_selects hr hrs).symm.trans (opField_of_selects hq hqs))

/-- The legal words by their fields (R86): RSV zero, and the field the opcode leaves unused zero. -/
theorem exists_decode_eq_legal_iff (w : U32) :
    (∃ i, decode w = .legal i) ↔
      rsvField w = 0#4 ∧
        ((opField w = opCreate ∨ opField w = opCrc) ∧ handleField w = 0#8 ∨
          (opField w = opFeed ∨ opField w = opBuildSg) ∧ immField w = 0#16) := by
  constructor
  · rintro ⟨i, hd⟩
    rw [eq_encode_of_decode hd]
    cases i <;> simp [encode]
  · rintro ⟨hr, ⟨ho | ho, hz⟩ | ⟨ho | ho, hz⟩⟩
    · exact ⟨.create (p1Field w) (p2Field w), by simp [decode, hr, ho, hz]⟩
    · exact ⟨.crc (immField w), by simp [decode, hr, ho, hz, opCreate, opCrc]⟩
    · exact ⟨.feed (handleField w), by simp [decode, hr, ho, hz, opCreate, opCrc, opFeed]⟩
    · exact ⟨.buildSg (handleField w), by simp [decode, hr, ho, hz, opCreate, opCrc, opFeed, opBuildSg]⟩

theorem exists_decode_eq_illegal_iff (w : U32) : (∃ why, decode w = .illegal why) ↔ ¬ ∃ i, decode w = .legal i := by
  cases decode w <;> simp

/-- The opcodes that are no command are 0x0 and 0x5-0xF (R93). -/
theorem opcode_reserved_iff : ∀ op : BitVec 4,
    op = 0x0#4 ∨ 0x5#4 ≤ op ↔ ¬ ((op = opCreate ∨ op = opCrc) ∨ (op = opFeed ∨ op = opBuildSg)) := by decide

/-- No opcode leaves both HANDLE and IMM16 unused. -/
theorem opcode_exclusive : ∀ op : BitVec 4,
    ¬ ((op = opCreate ∨ op = opCrc) ∧ (op = opFeed ∨ op = opBuildSg)) := by decide

end Sys2Proof

namespace Sys2Proof.Machine

theorem step_of_decode_legal {s : State} {w : U32} {ops : Bundle} {rest : List HostInput} {i : Instr}
    (hp : s.pending = .command w ops :: rest) (hd : decode w = .legal i) : step s = exec i (s.accept ops rest) := by
  simp [step, hp, hd]

theorem step_of_decode_illegal {s : State} {w : U32} {ops : Bundle} {rest : List HostInput} {why : Illegal}
    (hp : s.pending = .command w ops :: rest) (hd : decode w = .illegal why) : step s = rejectIllegal s rest := by
  simp [step, hp, hd]

/-- Settles O4: a word is illegal when it is not legal by its fields, and a step that takes it only returns the failing
response. -/
theorem illegalWordsCompleteWithIllegalCommand : Obligations.IllegalWordsCompleteWithIllegalCommand := by
  unfold Obligations.IllegalWordsCompleteWithIllegalCommand
  refine ⟨fun w => ?reserved, fun s w ops rest why hp hd => step_of_decode_illegal hp hd⟩
  case reserved =>
    have hop := opcode_reserved_iff (opField w)
    have hex := opcode_exclusive (opField w)
    rw [exists_decode_eq_illegal_iff, exists_decode_eq_legal_iff]
    simp only [opCreate, opCrc, opFeed, opBuildSg] at hop hex ⊢
    tauto

end Sys2Proof.Machine
end

section
/-!
PROOFS. The codes of the statuses, the event kinds and the parse states (R81, R88, R90).
-/

namespace Sys2Proof.Machine

/-- The status a code reads as: the statuses in the order of their codes (R88). -/
def statusOfCode (code : Byte) : Status :=
  [.ok, .invalidInstance, .invalidArgument, .capacityExceeded, .allocationFailure].getD code.toNat .illegalCommand

/-- The event kind a code reads as (R81). -/
def eventKindOfCode (code : BitVec 3) : EventKind :=
  [.preambleDetected, .headerCrcError, .packetLengthError, .dataCrcError].getD code.toNat .validData

/-- The parse state a code reads as (R90). -/
def parseStateOfCode (code : BitVec 4) : ParseState :=
  [.seekP1, .seekP2, .lenHi, .lenLo, .dcrcHi, .dcrcLo, .hcrcHi, .hcrcLo].getD code.toNat .data

theorem statusOfCode_code (st : Status) : statusOfCode st.code = st := by cases st <;> rfl

theorem eventKindOfCode_code (k : EventKind) : eventKindOfCode k.code = k := by cases k <;> rfl

theorem parseStateOfCode_code (st : ParseState) : parseStateOfCode st.code = st := by cases st <;> rfl

theorem Status.code_le (st : Status) : st.code ≤ 0x05#8 := by cases st <;> decide

theorem EventKind.code_le (k : EventKind) : k.code ≤ 4#3 := by cases k <;> decide

theorem ParseState.code_le (st : ParseState) : st.code ≤ 8#4 := by cases st <;> decide

/-- Settles O6: each code is the one printed, none is above the last, and each reads back as what it is the code of. -/
theorem codesAreAsTabulated : Obligations.CodesAreAsTabulated := by
  unfold Obligations.CodesAreAsTabulated
  refine ⟨rfl, rfl, rfl, rfl, rfl, rfl, rfl, rfl, rfl, rfl, rfl, rfl, rfl, rfl, rfl, rfl, rfl, rfl, rfl, rfl,
    Status.code_le, EventKind.code_le, ParseState.code_le, ?statuses, ?kinds, ?states⟩
  case statuses => exact Function.LeftInverse.injective statusOfCode_code
  case kinds => exact Function.LeftInverse.injective eventKindOfCode_code
  case states => exact Function.LeftInverse.injective parseStateOfCode_code

end Sys2Proof.Machine
end

section
/-!
PROOFS. What a command returns (R89): one response, with a result exactly as its status and kind give it; and what it reads of
its operand bundle (R87).
-/

namespace Sys2Proof.Machine

variable {TOKEN : Type}

@[simp] theorem length_be16 (v : U16) : (be16 v).length = 2 := rfl

@[simp] theorem length_headerForming (p1 p2 : Byte) (len dataCrc : U16) :
    (headerForming p1 p2 len dataCrc).length = 6 := rfl

/-- Every header is eight bytes long (R140). -/
@[simp] theorem length_headerGen (P : Params) (p1 p2 : Byte) (len dataCrc : U16) :
    (headerGen P p1 p2 len dataCrc).length = 8 := rfl

/-- A frame is its header and its payload (R143). -/
theorem length_buildFrame (P : Params) (c : Context) (segs : List (List Byte)) :
    (buildFrame P c segs).length = 8 + totalLength segs := by
  simp [buildFrame, joinSegments, totalLength]

/-- The result of a command that returns OK (R89). -/
def OkResult (s : State) : Instr → Option Result → Prop
  | .create _ _, x => x = some (.handle (BitVec.ofNat 8 s.nCreated))
  | .crc start, x => x = some (.crc (crc16 s.params s.operands.data start))
  | .feed _, x => ∃ es, x = some (.events es)
  | .buildSg _, x => ∃ F, x = some (.frame F) ∧ F.length = 8 + totalLength s.operands.segs

/-- From `s` to `t` the command `i` returns the one response `r`, with the result R89 gives its status, and takes nothing from
the port. -/
structure Answers (i : Instr) (s t : State) (r : Response) : Prop where
  pending : t.pending = s.pending
  responses : t.responses = s.responses ++ [r]
  failed : r.status ≠ .ok → r.result = none
  ok : r.status = .ok → OkResult s i r.result

/-- A failing command answers (R203). -/
theorem failWith_answers (i : Instr) (s : State) {st : Status} (hst : st ≠ .ok) :
    ∃ t r, failWith s st = .next t ∧ Answers i s t r :=
  ⟨_, _, failWith_eq s st, rfl, rfl, fun _ => rfl, fun hok => absurd hok hst⟩

/-- A command that completes OK answers, if its result is the one R89 gives it. -/
theorem completeOk_answers {i : Instr} {s u : State} {x : Result} (hp : u.pending = s.pending)
    (hr : u.responses = s.responses) (hx : OkResult s i (some x)) :
    ∃ t r, completeOk u x = .next t ∧ Answers i s t r :=
  ⟨_, _, completeOk_eq u x, hp, congrArg (· ++ _) hr, fun hok => absurd rfl hok, fun _ => hx⟩

/-- Every command answers, in every state. -/
theorem exec_answers (i : Instr) (s : State) : ∃ t r, exec i s = .next t ∧ Answers i s t r := by
  cases i with
  | create p1 p2 =>
    rcases execCreate_cases p1 p2 s with ⟨-, e⟩ | ⟨-, e⟩ <;> rw [exec, e]
    · exact failWith_answers _ s (by decide)
    · exact completeOk_answers rfl rfl rfl
  | crc start => exact completeOk_answers rfl rfl rfl
  | feed h =>
    rcases execFeed_cases h s with ⟨-, e⟩ | ⟨-, e⟩ <;> rw [exec, e]
    · exact failWith_answers _ s (by decide)
    · exact completeOk_answers rfl rfl ⟨_, rfl⟩
  | buildSg h =>
    rcases execBuildSg_cases h s with ⟨-, e⟩ | ⟨-, -, e⟩ | ⟨-, -, -, e⟩ | ⟨-, -, -, -, e⟩ | ⟨-, -, -, -, e⟩ <;> rw [exec, e]
    on_goal 5 => exact completeOk_answers rfl rfl ⟨_, rfl, length_buildFrame _ _ _⟩
    all_goals exact failWith_answers _ s (by decide)

/-- A response without a result has no events (R83). -/
theorem Response.Of.events_of_result_none {r : Response.Of TOKEN} (h : r.result = none) : r.events = [] := by
  simp [Response.Of.events, h]

/-- Settles O11: a legal word is answered by its command, an illegal one by ILLEGAL_COMMAND, each with one response. -/
theorem eachCommandReturnsOneResponse : Obligations.EachCommandReturnsOneResponse := by
  unfold Obligations.EachCommandReturnsOneResponse
  refine ⟨fun s t w ops rest hp ht => ?one, fun s t i r ht hr hok => ?result⟩
  case one =>
    cases hd : decode w with
    | legal i =>
      obtain ⟨u, r, hu, answers⟩ := exec_answers i (s.accept ops rest)
      cases ((step_of_decode_legal hp hd).trans hu).symm.trans ht
      exact ⟨answers.pending, r, answers.responses, fun hst =>
        ⟨answers.failed hst, Response.Of.events_of_result_none (answers.failed hst)⟩⟩
    | illegal why =>
      cases (step_of_decode_illegal hp hd).symm.trans ht
      exact ⟨rfl, _, rfl, fun _ => ⟨rfl, rfl⟩⟩
  case result =>
    obtain ⟨u, q, hu, answers⟩ := exec_answers i s
    cases hu.symm.trans ht
    have hq : [q] = [r] := List.append_cancel_left (answers.responses.symm.trans hr)
    cases hq
    have hres : OkResult s i r.result := answers.ok hok
    cases i <;> exact hres

/-- With two bundles that agree on what it reads, a command does the same but for the bundle itself (R87). -/
theorem exec_congr_operands {i : Instr} {a b : Bundle} (s : State) (hab : SameOperands a b i) :
    ∃ t, exec i { s with operands := a } = .next t ∧ exec i { s with operands := b } = .next { t with operands := b } := by
  cases i with
  | create p1 p2 =>
    simp only [exec, execCreate]
    split <;> exact ⟨_, rfl, rfl⟩
  | crc start =>
    have hdata : a.data = b.data := hab
    simp only [exec, execCrc, State.Of.dataOperand, hdata]
    exact ⟨_, rfl, rfl⟩
  | feed h =>
    obtain ⟨htok, hdata⟩ : a.token = b.token ∧ a.data = b.data := hab
    unfold exec execFeed State.Of.validHandle State.Of.tokenOperand State.Of.dataOperand
    simp only [htok, hdata]
    split <;> exact ⟨_, rfl, rfl⟩
  | buildSg h =>
    have hsegs : a.segs = b.segs := hab
    unfold exec execBuildSg State.Of.validHandle State.Of.segsOperand
    simp only [hsegs]
    split_ifs <;> exact ⟨_, rfl, rfl⟩

/-- Settles O13: the next states differ in the bundle alone. -/
theorem commandsReadOnlyTheirOperands : Obligations.CommandsReadOnlyTheirOperands := by
  unfold Obligations.CommandsReadOnlyTheirOperands
  intro s i a b hab
  obtain ⟨t, ha, hb⟩ := exec_congr_operands s hab
  exact ⟨t, _, ha, hb, rfl, rfl, rfl⟩

end Sys2Proof.Machine
end

section
/-!
PROOFS. What the events of the receiver carry (R82).
-/

namespace Sys2Proof.Machine

variable {TOKEN : Type} {P : Params} {c c' : Context} {h : Handle} {tok : TOKEN} {b : Byte} {e : Event.Of TOKEN}

/-- The payload that byte `b` completes, if it completes one: the buffer with `b` in DATA, nothing at HCRC_LO. -/
def completedPayload (c : Context) (b : Byte) : List Byte := if c.st = .data then c.rx ++ [b] else []

/-- What `rx_step` emits: an event without metadata and payload, or, with `len` payload bytes there, VALID_DATA with the
staged header and that payload. -/
def EmitsAs (c c' : Context) (h : Handle) (tok : TOKEN) (b : Byte) (e : Event.Of TOKEN) : Prop :=
  (∃ kind ≠ .validData, e = plainEvent h tok kind) ∨
  (c.st ∈ [.hcrcLo, .data] ∧ e = validDataEvent h tok c'.hdr (completedPayload c b) ∧
    (completedPayload c b).length = c.len.toNat ∧ c'.len = c.len ∧ c'.hdr.b2 = c.hdr.b2 ∧ c'.hdr.b3 = c.hdr.b3)

theorem emitsAs_plainEvent {kind : EventKind} (hk : kind ≠ .validData) : EmitsAs c c' h tok b (plainEvent h tok kind) :=
  .inl ⟨kind, hk, rfl⟩

/-- SEEK_P2 emits nothing but PREAMBLE_DETECTED (R164). -/
theorem rxSeekP2_emitsAs (he : rxSeekP2 c h tok b = (c', some e)) : EmitsAs c c' h tok b e := by
  unfold rxSeekP2 at he
  split_ifs at he <;> cases he
  exact emitsAs_plainEvent (by decide)

/-- A zero-length frame delivers an empty payload (R178). -/
theorem completeEmpty_cases :
    (c.dcrcExp = 0x0000#16 ∧
      completeEmpty c h tok = ({ c with st := .seekP1 }, some (validDataEvent h tok c.hdr []))) ∨
    (c.dcrcExp ≠ 0x0000#16 ∧
      completeEmpty c h tok = ({ c with st := .seekP1, rxHeld := true }, some (plainEvent h tok .dataCrcError))) := by
  by_cases hd : c.dcrcExp = 0x0000#16
  · exact .inl ⟨hd, if_pos hd⟩
  · exact .inr ⟨hd, if_neg hd⟩

theorem rxHcrcLo_emitsAs (hs : c.st = .hcrcLo) (he : rxHcrcLo P c h tok b = (c', some e)) : EmitsAs c c' h tok b e := by
  rcases rxHcrcLo_cases (P := P) (h := h) (tok := tok) (stageHcrcLo c b) rfl with
    ⟨-, e1⟩ | ⟨-, -, e1⟩ | ⟨-, hlen, e1⟩ | ⟨-, -, -, e1⟩
  · cases e1.symm.trans he
    exact emitsAs_plainEvent (by decide)
  · cases e1.symm.trans he
    exact emitsAs_plainEvent (by decide)
  · have hc : c.len = 0x0000#16 := hlen
    rcases completeEmpty_cases (c := releaseBuffer (stageHcrcLo c b)) (h := h) (tok := tok) with ⟨-, e2⟩ | ⟨-, e2⟩ <;>
      cases (e1.trans e2).symm.trans he
    · have hp : completedPayload c b = [] := by simp [completedPayload, hs]
      refine .inr ⟨by simp [hs], ?_⟩
      rw [hp, hc]
      exact ⟨rfl, rfl, hc, rfl, rfl⟩
    · exact emitsAs_plainEvent (by decide)
  · cases e1.symm.trans he

theorem rxData_emitsAs (hs : c.st = .data) (he : rxData P c h tok b = (c', some e)) : EmitsAs c c' h tok b e := by
  rcases rxData_cases (P := P) (c := c) (h := h) (tok := tok) (b := b) _ rfl with
    ⟨-, e1⟩ | ⟨hlen, -, e1⟩ | ⟨-, -, e1⟩ <;> cases e1.symm.trans he
  · have hp : completedPayload c b = c.rx ++ [b] := if_pos hs
    refine .inr ⟨by simp [hs], ?_⟩
    rw [hp]
    exact ⟨rfl, hlen, rfl, rfl, rfl⟩
  · exact emitsAs_plainEvent (by decide)

/-- Every event of the receiver is one of these; in the other six parse states there is none. -/
theorem rxStep_emitsAs (he : rxStep P c h tok b = (c', some e)) : EmitsAs c c' h tok b e := by
  cases hs : c.st with
  | seekP1 =>
    rw [rxStep_of_seekP1 hs, rxSeekP1] at he
    split at he <;> cases he
  | seekP2 => exact rxSeekP2_emitsAs (rxStep_of_seekP2 hs ▸ he)
  | lenHi => cases (rxStep_of_lenHi hs).symm.trans he
  | lenLo => cases (rxStep_of_lenLo hs).symm.trans he
  | dcrcHi => cases (rxStep_of_dcrcHi hs).symm.trans he
  | dcrcLo => cases (rxStep_of_dcrcLo hs).symm.trans he
  | hcrcHi => cases (rxStep_of_hcrcHi hs).symm.trans he
  | hcrcLo => exact rxHcrcLo_emitsAs hs (rxStep_of_hcrcLo hs ▸ he)
  | data => exact rxData_emitsAs hs (rxStep_of_data hs ▸ he)

/-- From DCRC_HI on the length register is the staged length (R35). -/
theorem ContextInv.len_eq_join16 (inv : ContextInv P c) (hs : c.st ∈ [.hcrcLo, .data]) :
    c.len = join16 c.hdr.b2 c.hdr.b3 := by
  obtain ⟨-, -, hlen, -⟩ := inv
  exact hlen (List.mem_of_mem_drop (i := 3) hs)

/-- Settles O43: an event is plain, or VALID_DATA with the staged header and a payload of the length register's length, which
the invariant makes the header's. -/
theorem onlyValidDataCarriesHeaderAndPayload : Obligations.OnlyValidDataCarriesHeaderAndPayload := by
  unfold Obligations.OnlyValidDataCarriesHeaderAndPayload
  intro P c c' h tok b e inv he
  rcases rxStep_emitsAs he with ⟨kind, hk, rfl⟩ | ⟨hs, rfl, hp, hlen, h2, h3⟩
  · exact ⟨rfl, rfl, fun _ => ⟨rfl, rfl⟩, fun hv => absurd hv hk⟩
  · have hhdr : c.len = join16 c'.hdr.b2 c'.hdr.b3 := by rw [h2, h3, ContextInv.len_eq_join16 inv hs]
    exact ⟨rfl, rfl, fun hv => absurd rfl hv, fun _ => ⟨rfl, _, rfl, rfl, hhdr ▸ hp, hlen ▸ hp⟩⟩

end Sys2Proof.Machine
end

section
/-!
PROOFS. The CRC of a concatenation (R104), and the CRC command: what it answers, and the words that are a CRC (R107).
-/

namespace Sys2Proof

/-- Where a mask keeps every bit of a field, a masked word has that field of the word. -/
theorem extractLsb'_eq_of_and_eq {n i k : Nat} {w m p : BitVec n} (hw : w &&& m = p)
    (hm : m.extractLsb' i k = BitVec.allOnes k) : w.extractLsb' i k = p.extractLsb' i k := by
  rw [← hw, BitVec.extractLsb'_and, hm, BitVec.and_allOnes]

theorem encode_crc (start : U16) : encode (.crc start) = 0x20000000#32 ||| start.zeroExtend 32 :=
  congrArg (· ||| start.zeroExtend 32)
    (by decide : opCrc.zeroExtend 32 <<< 28 ||| (0#8).zeroExtend 32 <<< 16 = 0x20000000#32)

/-- The row of CRC (R85): its mask keeps OP, RSV and HANDLE, and leaves START free. -/
theorem exists_decode_eq_crc_iff (w : U32) :
    (∃ start, decode w = .legal (.crc start)) ↔ w &&& 0xFFFF0000#32 = 0x20000000#32 := by
  simp only [decode_eq_legal_iff]
  constructor
  · rintro ⟨start, rfl⟩
    exact (Laws.TableRow.upper_mask opCrc 0#8 start).trans (by decide)
  · intro hw
    have hrsv : rsvField w = 0#4 := extractLsb'_eq_of_and_eq hw (by decide)
    have hop : opField w = opCrc := extractLsb'_eq_of_and_eq hw (by decide)
    have hhandle : handleField w = 0#8 := extractLsb'_eq_of_and_eq hw (by decide)
    exact ⟨immField w, eq_commandWord hrsv hop hhandle rfl⟩

end Sys2Proof

namespace Sys2Proof.Machine

/-- The chain property (R104). -/
theorem crc16_append (P : Params) (A B : List Byte) (start : U16) :
    crc16 P (A ++ B) start = crc16 P B (crc16 P A start) := List.foldl_append

/-- CRC answers OK with the CRC of its data, in every state (R107). -/
theorem exec_crc (start : U16) (s : State) :
    exec (.crc start) s =
      .next (s.respond { status := .ok, result := some (.crc (crc16 s.params s.operands.data start)) }) := rfl

/-- A CRC of `data` leaves the parameters and returns the CRC of `data`. -/
theorem params_newResponses_of_exec_crc {s t : State} {start : U16} {data : List Byte}
    (ht : exec (.crc start) (s.withFeed s.operands.token data) = .next t) :
    t.params = s.params ∧
      newResponses s t = [{ status := .ok, result := some (.crc (crc16 s.params data start)) }] := by
  cases (exec_crc _ _).symm.trans ht
  exact ⟨rfl, newResponses_respond _ rfl⟩

theorem newResponses_of_responses_eq {s t : State} {rs : List Response} (ht : t.responses = s.responses ++ rs) :
    newResponses s t = rs := by
  simp [newResponses, ht]

/-- Settles O17: the command by its spec lemma, its words by the mask of its row, the example's whole by its two parts. -/
theorem crcCommandReturnsCrcOfData : Obligations.CrcCommandReturnsCrcOfData := by
  unfold Obligations.CrcCommandReturnsCrcOfData
  refine ⟨fun s start => exec_crc start s, exists_decode_eq_crc_iff, fun start => ?word, crc16_nil, fun P hP => ?vectors⟩
  case word => exact encode_crc start ▸ decode_encode (.crc start)
  case vectors =>
    have head : crc16 P [0x31#8, 0x32#8] 0x0000#16 = 0x20B5#16 := by
      simp only [crc16_cons, crc16_nil, crcStep_forward hP]
      decide +kernel
    have tail : crc16 P [0x33#8, 0x34#8, 0x35#8, 0x36#8, 0x37#8, 0x38#8, 0x39#8] 0x20B5#16 = 0x31C3#16 := by
      simp only [crc16_cons, crc16_nil, crcStep_forward hP]
      decide +kernel
    refine ⟨head, tail, (crc16_append P [0x31#8, 0x32#8] _ 0x0000#16).trans ?_⟩
    rw [head, tail]

/-- Settles O18: the value the first command returned is the CRC of the head, and the chain property joins the tail to it. -/
theorem crcChainsOverConcatenation : Obligations.CrcChainsOverConcatenation := by
  unfold Obligations.CrcChainsOverConcatenation
  refine ⟨crc16_append, fun s t u v A B start c hhead hresp htail hwhole => ?_⟩
  obtain ⟨hparams, headResp⟩ := params_newResponses_of_exec_crc hhead
  obtain ⟨-, tailResp⟩ := params_newResponses_of_exec_crc htail
  obtain ⟨-, wholeResp⟩ := params_newResponses_of_exec_crc hwhole
  have hc : c = crc16 s.params A start := by
    simpa using (newResponses_of_responses_eq hresp).symm.trans headResp
  rw [tailResp, wholeResp, hparams, hc, crc16_append]

end Sys2Proof.Machine
end

section
/-!
PROOFS. The context table (41_context.md): what CREATE does with a free slot and with none (R120, R122, R124), the handles a
run of commands assigns (R123), and the handle check of FEED and BUILD_SG (R121, R147).
-/

namespace Sys2Proof

/-- A word agrees with a command word on the mask of CREATE and CRC (R85) iff it is that command's word, IMM16 being free. -/
theorem and_upper_mask_eq_iff (w : U32) (op : BitVec 4) :
    w &&& 0xFFFF0000#32 = commandWord op 0#8 0#16 ↔ w = commandWord op 0#8 (immField w) := by
  constructor
  · intro hw
    have hrsv : rsvField w = rsvField (commandWord op 0#8 0#16) := extractLsb'_eq_of_and_eq hw (by decide)
    have hop : opField w = opField (commandWord op 0#8 0#16) := extractLsb'_eq_of_and_eq hw (by decide)
    have hhandle : handleField w = handleField (commandWord op 0#8 0#16) := extractLsb'_eq_of_and_eq hw (by decide)
    rw [rsvField_commandWord] at hrsv
    rw [opField_commandWord] at hop
    rw [handleField_commandWord] at hhandle
    exact eq_commandWord hrsv hop hhandle rfl
  · intro hw
    rw [hw]
    exact Laws.TableRow.upper_mask op 0#8 (immField w)

/-- The row of CREATE (R85): P1 and P2 are the two bytes of the free IMM16. -/
theorem exists_decode_eq_create_iff (w : U32) :
    (∃ p1 p2, decode w = .legal (.create p1 p2)) ↔ w &&& 0xFFFF0000#32 = 0x10000000#32 := by
  have hpattern : 0x10000000#32 = commandWord opCreate 0#8 0#16 := by decide
  simp only [hpattern, and_upper_mask_eq_iff, decode_eq_legal_iff, encode_create]
  constructor
  · rintro ⟨p1, p2, rfl⟩
    rw [immField_commandWord]
  · intro hw
    exact ⟨p1Field w, p2Field w, by rw [join16_p1Field_p2Field]; exact hw⟩

end Sys2Proof

namespace Sys2Proof.Machine

/- ==== One CREATE ==== -/

/-- What a successful CREATE writes, before it answers: the next slot and the count of created contexts (R120). -/
def State.Of.addContext {TOKEN : Type} (s : State.Of TOKEN) (p1 p2 : Byte) : State.Of TOKEN :=
  { s.setCtx s.nCreated (createdContext p1 p2) with nCreated := s.nCreated + 1 }

section
variable {TOKEN : Type} (s : State.Of TOKEN) (p1 p2 : Byte)

@[simp] theorem State.Of.addContext_params : (s.addContext p1 p2).params = s.params := rfl
@[simp] theorem State.Of.addContext_nCreated : (s.addContext p1 p2).nCreated = s.nCreated + 1 := rfl
@[simp] theorem State.Of.addContext_responses : (s.addContext p1 p2).responses = s.responses := rfl

end

/-- What a successful CREATE answers: the handle of the slot it wrote (R89, R123). -/
def createdResponse (n : Nat) : Response := { status := .ok, result := some (.handle (BitVec.ofNat 8 n)) }

theorem exec_create_of_full {s : State} (hfull : s.nCreated = s.params.maxInstances) (p1 p2 : Byte) :
    exec (.create p1 p2) s = .next (s.respond { status := .capacityExceeded, result := none }) := by
  rcases execCreate_cases p1 p2 s with ⟨-, e⟩ | ⟨hfree, -⟩
  · exact e
  · exact absurd hfull hfree

theorem exec_create_of_free {s : State} (hfree : s.nCreated ≠ s.params.maxInstances) (p1 p2 : Byte) :
    exec (.create p1 p2) s = .next ((s.addContext p1 p2).respond (createdResponse s.nCreated)) := by
  rcases execCreate_cases p1 p2 s with ⟨hfull, -⟩ | ⟨-, e⟩
  · exact absurd hfull hfree
  · exact e

/-- Settles O28: CREATE does not compare its preambles, and SEEK_P2 tests preamble_2 first. -/
theorem equalPreamblesAreAccepted : Obligations.EqualPreamblesAreAccepted := by
  unfold Obligations.EqualPreamblesAreAccepted
  refine ⟨fun s x hfree => ⟨_, _, exec_create_of_free hfree x x, rfl⟩, fun P c h tok x hst _ hp2 => ?detected⟩
  case detected =>
    rw [rxStep_of_seekP2 hst, rxSeekP2, if_pos hp2.symm]
    exact ⟨rfl, rfl⟩

/- ==== The handle check ==== -/

/-- No segment limit refuses an empty list (R145). -/
theorem segmentsExceed_zero (limit : SegmentLimit) : segmentsExceed limit 0 = false := by
  cases limit <;> simp [segmentsExceed]

/-- On a valid handle a BUILD_SG of no segments passes every later check of R148: its payload has length zero. -/
theorem execBuildSg_of_no_segs {s : State} {h : Handle} (hv : h.toNat < s.nCreated) (hsegs : s.operands.segs = []) :
    execBuildSg h s = completeOk s (.frame (buildFrame s.params (s.ctx h.toNat) s.operands.segs)) := by
  have hcount : segmentsExceed s.params.maxSegments s.operands.segs.length = false := by
    rw [hsegs]
    exact segmentsExceed_zero _
  have htotal : totalLength s.operands.segs = 0 := by rw [hsegs]; rfl
  rcases execBuildSg_cases h s with ⟨hn, -⟩ | ⟨-, hx, -⟩ | ⟨-, -, ho, -⟩ | ⟨-, -, -, ha, -⟩ | ⟨-, -, -, -, e⟩
  · exact absurd hv (Nat.not_lt.mpr hn)
  · exact absurd (hx.symm.trans hcount) (by decide)
  · omega
  · omega
  · exact e

/-- Settles O30: the handle check comes first in FEED and in BUILD_SG, and it is the comparison with `n_created`. -/
theorem handleIsValidIffBelowCreatedCount : Obligations.HandleIsValidIffBelowCreatedCount := by
  unfold Obligations.HandleIsValidIffBelowCreatedCount
  refine fun s h => ⟨fun hn => ?invalid, fun hv => ?valid⟩
  case invalid =>
    have hv : s.validHandle h = false := by simpa [State.Of.validHandle] using hn
    exact ⟨if_pos hv, if_pos hv⟩
  case valid =>
    constructor
    · rcases execFeed_cases h s with ⟨hn, -⟩ | ⟨-, e⟩
      · exact absurd hv (Nat.not_lt.mpr hn)
      · exact ⟨_, _, e, rfl⟩
    · exact fun hsegs => ⟨_, _, execBuildSg_of_no_segs hv hsegs, rfl⟩

/- ==== What a command does to the count ==== -/

/-- From `s` to `t` one command was answered: it created no context and returned no handle, or there was a free slot and it
created the next context and returned its handle. -/
def CountsCreated (s t : State) : Prop :=
  t.params = s.params ∧
  ((t.nCreated = s.nCreated ∧ ∃ r : Response, r.newHandle = none ∧ t.responses = s.responses ++ [r]) ∨
    (s.nCreated ≠ s.params.maxInstances ∧ t.nCreated = s.nCreated + 1 ∧
      t.responses = s.responses ++ [createdResponse s.nCreated]))

theorem countsCreated_respond {s u : State} {r : Response} (hparams : u.params = s.params)
    (hn : u.nCreated = s.nCreated) (hr : u.responses = s.responses) (hnone : r.newHandle = none) :
    CountsCreated s (u.respond r) := ⟨hparams, .inl ⟨hn, r, hnone, congrArg (· ++ [r]) hr⟩⟩

/-- CREATE alone returns a handle, and then it has counted its context. -/
theorem exec_countsCreated {i : Instr} {s t : State} (ht : exec i s = .next t) : CountsCreated s t := by
  cases i with
  | create p1 p2 =>
    by_cases hfull : s.nCreated = s.params.maxInstances
    · cases (exec_create_of_full hfull p1 p2).symm.trans ht
      exact countsCreated_respond rfl rfl rfl rfl
    · cases (exec_create_of_free hfull p1 p2).symm.trans ht
      exact ⟨rfl, .inr ⟨hfull, rfl, rfl⟩⟩
  | crc start =>
    cases (exec_crc start s).symm.trans ht
    exact countsCreated_respond rfl rfl rfl rfl
  | feed h =>
    rcases execFeed_cases h s with ⟨-, e⟩ | ⟨-, e⟩ <;> cases e.symm.trans ht <;>
      exact countsCreated_respond rfl rfl rfl rfl
  | buildSg h =>
    rcases execBuildSg_cases h s with ⟨-, e⟩ | ⟨-, -, e⟩ | ⟨-, -, -, e⟩ | ⟨-, -, -, -, e⟩ | ⟨-, -, -, -, e⟩ <;>
      cases e.symm.trans ht <;> exact countsCreated_respond rfl rfl rfl rfl

/-- An illegal word creates no context (R86). -/
theorem step_command_countsCreated {s t : State} {w : U32} {ops : Bundle} {rest : List HostInput}
    (hp : s.pending = .command w ops :: rest) (ht : step s = .next t) : CountsCreated s t := by
  cases hd : decode w with
  | legal i =>
    have hcounts : CountsCreated (s.accept ops rest) t := exec_countsCreated ((step_of_decode_legal hp hd).symm.trans ht)
    exact hcounts
  | illegal why =>
    cases (step_of_decode_illegal hp hd).symm.trans ht
    exact countsCreated_respond rfl rfl rfl rfl

/-- Settles O26: a command that creates a context has found a free slot. -/
theorem capacityExhaustionIsPermanent : Obligations.CapacityExhaustionIsPermanent := by
  unfold Obligations.CapacityExhaustionIsPermanent
  refine fun s hfull => ⟨exec_create_of_full hfull, fun w ops rest t hp ht => ?stays⟩
  case stays =>
    obtain ⟨hparams, ⟨hn, -⟩ | ⟨hfree, -⟩⟩ := step_command_countsCreated hp ht
    · rw [hn, hparams, hfull]
    · exact absurd hfull hfree

/- ==== The handles of a run ==== -/

/-- A run of `n + 1` steps is a step and a run of `n`. -/
theorem run_succ_eq_next_iff {n : Nat} {s t : State} :
    core.run (n + 1) s = .next t ↔ ∃ u, step s = .next u ∧ core.run n u = .next t := by
  simp only [Host.Core.run, core]
  cases step s <;> simp

/-- The handles of `n` created contexts, in the order of their creation (R123). -/
def handlesBelow (n : Nat) : List Handle := (List.range n).map (BitVec.ofNat 8)

theorem handlesBelow_succ (n : Nat) : handlesBelow (n + 1) = handlesBelow n ++ [BitVec.ofNat 8 n] := by
  simp [handlesBelow, List.range_succ]

/-- The handles returned from `s` to `t` continue those of the contexts created in `s` to those of the contexts created in
`t`. -/
def ContinuesHandles (s t : State) : Prop :=
  ∃ rs, t.responses = s.responses ++ rs ∧
    handlesBelow t.nCreated = handlesBelow s.nCreated ++ rs.filterMap Response.Of.newHandle

theorem ContinuesHandles.refl (s : State) : ContinuesHandles s s := ⟨[], by simp, by simp⟩

theorem ContinuesHandles.trans {s t u : State} (hst : ContinuesHandles s t) (htu : ContinuesHandles t u) :
    ContinuesHandles s u := by
  obtain ⟨rs, hr, hh⟩ := hst
  obtain ⟨qs, hq, hk⟩ := htu
  exact ⟨rs ++ qs, by rw [hq, hr, List.append_assoc], by rw [hk, hh, List.filterMap_append, List.append_assoc]⟩

theorem CountsCreated.continuesHandles {s t : State} (hcounts : CountsCreated s t) : ContinuesHandles s t := by
  obtain ⟨-, ⟨hn, r, hnone, hr⟩ | ⟨-, hn, hr⟩⟩ := hcounts
  · exact ⟨[r], hr, by simp [hn, hnone]⟩
  · exact ⟨_, hr, by rw [hn, handlesBelow_succ]; rfl⟩

/-- With no reset pending a step continues the handles, and leaves no reset pending. -/
theorem step_continuesHandles {s t : State} (hreset : HostInput.Of.reset ∉ s.pending) (ht : step s = .next t) :
    ContinuesHandles s t ∧ HostInput.Of.reset ∉ t.pending := by
  cases hp : s.pending with
  | nil =>
    have hidle : step s = .next s := by simp [step, hp]
    cases hidle.symm.trans ht
    exact ⟨.refl s, hreset⟩
  | cons head rest =>
    rw [hp] at hreset
    cases head with
    | reset => exact absurd List.mem_cons_self hreset
    | command w ops =>
      obtain ⟨hrest, -⟩ := eachCommandReturnsOneResponse.1 s t w ops rest hp ht
      rw [hrest]
      exact ⟨(step_command_countsCreated hp ht).continuesHandles, fun hmem => hreset (List.mem_cons_of_mem _ hmem)⟩

theorem run_continuesHandles {n : Nat} {s t : State} (hreset : HostInput.Of.reset ∉ s.pending)
    (ht : core.run n s = .next t) : ContinuesHandles s t := by
  induction n generalizing s with
  | zero =>
    cases ht
    exact .refl _
  | succ n ih =>
    obtain ⟨u, hu, hrun⟩ := run_succ_eq_next_iff.mp ht
    obtain ⟨hfirst, hreset'⟩ := step_continuesHandles hreset hu
    exact hfirst.trans (ih hreset' hrun)

/- ==== A run of CREATEs ==== -/

/-- A CREATE with the given preambles, as the host sends it. -/
def createInput (p : Byte × Byte) : HostInput := asmInput (.create p.1 p.2)

theorem step_createInput {s : State} {p : Byte × Byte} {rest : List HostInput}
    (hp : s.pending = createInput p :: rest) :
    step s = exec (.create p.1 p.2) (s.accept Bundle.empty rest) :=
  step_of_decode_legal hp (decode_encode (.create p.1 p.2))

theorem step_createInput_of_free {s : State} {p : Byte × Byte} {rest : List HostInput}
    (hp : s.pending = createInput p :: rest) (hfree : s.nCreated ≠ s.params.maxInstances) :
    step s = .next (((s.accept Bundle.empty rest).addContext p.1 p.2).respond (createdResponse s.nCreated)) :=
  (step_createInput hp).trans (exec_create_of_free (s := s.accept Bundle.empty rest) hfree p.1 p.2)

/-- While there are free slots every CREATE succeeds, and the handles follow one another. -/
theorem run_creates (ps : List (Byte × Byte)) (rest : List HostInput) (s : State)
    (hp : s.pending = ps.map createInput ++ rest) (hfit : s.nCreated + ps.length ≤ s.params.maxInstances) :
    ∃ t, core.run ps.length s = .next t ∧ t.params = s.params ∧ t.pending = rest ∧
      t.nCreated = s.nCreated + ps.length ∧
      t.responses = s.responses ++ (List.range' s.nCreated ps.length).map createdResponse := by
  induction ps generalizing s with
  | nil => exact ⟨s, rfl, rfl, hp, rfl, by simp⟩
  | cons p ps ih =>
    rw [List.length_cons] at hfit
    have hstep := step_createInput_of_free hp (by omega)
    obtain ⟨t, hrun, hparams, hpending, hn, hr⟩ :=
      ih (((s.accept Bundle.empty _).addContext p.1 p.2).respond (createdResponse s.nCreated)) rfl (by simp; omega)
    exact ⟨t, run_succ_eq_next_iff.mpr ⟨_, hstep, hrun⟩, hparams, hpending, by simp [hn]; omega,
      by simp [hr, List.range'_succ]⟩

/-- Settles O27: from `n_created` 0 there are no earlier handles for the run's to continue; and CREATEs that fit all succeed. -/
theorem handlesAreSequentialFromReset : Obligations.HandlesAreSequentialFromReset := by
  unfold Obligations.HandlesAreSequentialFromReset
  refine ⟨fun s t n hn hreset ht => ?sequential, fun P preambles _ hfit => ?fromReset⟩
  case sequential =>
    obtain ⟨rs, hr, hh⟩ := run_continuesHandles hreset ht
    rw [hn] at hh
    rw [newResponses_of_responses_eq hr]
    exact hh.symm
  case fromReset =>
    have hp : ((State.resetWith P).withCommands (preambles.map fun p => .create p.1 p.2)).pending =
        preambles.map createInput ++ [] := (List.map_map).trans (List.append_nil _).symm
    obtain ⟨t, hrun, -, -, hn, hr⟩ := run_creates preambles [] _ hp ((Nat.zero_add _).trans_le hfit)
    refine ⟨t, hrun, hn.trans (Nat.zero_add _), ?_⟩
    rw [List.range_eq_range']
    exact hr

/- ==== CREATE, whole ==== -/

/-- A run goes on from the state its first `m` steps end in. -/
theorem run_add {m n : Nat} {s u : State} (hu : core.run m s = .next u) : core.run (m + n) s = core.run n u := by
  induction m generalizing s with
  | zero =>
    cases hu
    rw [Nat.zero_add]
  | succ m ih =>
    obtain ⟨v, hv, hrun⟩ := run_succ_eq_next_iff.mp hu
    rw [Nat.succ_add, ← ih hrun]
    simp only [Host.Core.run, core, hv]

/-- CREATEs that fill the table all succeed, and one more returns CAPACITY_EXCEEDED (R120, R122). -/
theorem run_creates_past_full {ps : List (Byte × Byte)} {p : Byte × Byte} {s : State}
    (hp : s.pending = ps.map createInput ++ [createInput p]) (hfill : s.nCreated + ps.length = s.params.maxInstances) :
    ∃ t, core.run (ps.length + 1) s = .next t ∧ t.nCreated = s.params.maxInstances ∧
      t.responses = s.responses ++ (List.range' s.nCreated ps.length).map createdResponse ++
        [{ status := .capacityExceeded, result := none }] := by
  obtain ⟨u, hrun, hparams, hpending, hn, hr⟩ := run_creates ps [createInput p] s hp hfill.le
  have hfull : u.nCreated = u.params.maxInstances := by rw [hn, hfill, hparams]
  have hstep := (step_createInput hpending).trans (exec_create_of_full (s := u.accept Bundle.empty []) hfull p.1 p.2)
  exact ⟨_, (run_add hrun).trans (run_succ_eq_next_iff.mpr ⟨_, hstep, rfl⟩), hn.trans hfill, congrArg (· ++ _) hr⟩

/-- In a state that meets the invariant every handle fits its 8 bits: there are at most 256 contexts (R10). -/
theorem State.Of.Inv.toNat_nextHandle {s : State} (inv : s.Inv) (hfree : s.nCreated ≠ s.params.maxInstances) :
    s.nextHandle.toNat = s.nCreated := by
  obtain ⟨hwf, -, hle, -⟩ := inv
  have hmax : s.params.maxInstances ≤ 256 := by
    simp only [Params.wf, Bool.and_eq_true, decide_eq_true_eq] at hwf
    omega
  rw [State.Of.nextHandle, BitVec.toNat_ofNat, Nat.mod_eq_of_lt (by omega)]

/-- Settles O25: the two outcomes by the spec lemmas of CREATE, its words by the mask of its row, and the example as two
CREATEs that fill the table and one more. -/
theorem createInitialisesNextContext : Obligations.CreateInitialisesNextContext := by
  unfold Obligations.CreateInitialisesNextContext
  refine ⟨fun s p1 p2 hfull => exec_create_of_full hfull p1 p2, fun s p1 p2 inv hfree => ?created,
    exists_decode_eq_create_iff, fun P t hmax ht => ?run⟩
  case created =>
    have hhandle : s.nextHandle.toNat = s.nCreated := inv.toNat_nextHandle hfree
    obtain ⟨-, hslots, hle, -⟩ := inv
    have hslot : s.nCreated < s.slots.length := hslots ▸ lt_of_le_of_ne hle hfree
    have hexec := exec_create_of_free hfree p1 p2
    exact ⟨_, hexec, execCreate_ctx_nCreated hslot hfree hexec, rfl, ⟨s.nextHandle, hhandle, rfl⟩,
      fun k hk => s.setCtx_ctx_of_ne s.nCreated k _ hk, List.length_set, rfl, rfl, rfl⟩
  case run =>
    obtain ⟨u, hrun, hn, hr⟩ := run_creates_past_full (ps := [(0xAA#8, 0x55#8), (0x7E#8, 0x81#8)]) (p := (0x01#8, 0x02#8))
      (s := { State.resetWith P with
        pending := [.command 0x1000AA55#32 Bundle.empty, .command 0x10007E81#32 Bundle.empty,
          .command 0x10000102#32 Bundle.empty] }) rfl hmax.symm
    cases hrun.symm.trans ht
    exact ⟨hn.trans hmax, hr⟩

end Sys2Proof.Machine
end

section
/-!
PROOFS. The frame assembler (42_assembler.md): the layout of a header (R140), the frame of a payload cut into segments (R141,
R143), and what BUILD_SG answers, check by check (R144-R148).
-/

namespace Sys2Proof

/-- A word agrees with a command word on the mask of FEED and BUILD_SG (R85) iff it is that command's word, HANDLE being free. -/
theorem and_handle_mask_eq_iff (w : U32) (op : BitVec 4) :
    w &&& 0xFF00FFFF#32 = commandWord op 0#8 0#16 ↔ w = commandWord op (handleField w) 0#16 := by
  constructor
  · intro hw
    have hrsv : rsvField w = rsvField (commandWord op 0#8 0#16) := extractLsb'_eq_of_and_eq hw (by decide)
    have hop : opField w = opField (commandWord op 0#8 0#16) := extractLsb'_eq_of_and_eq hw (by decide)
    have himm : immField w = immField (commandWord op 0#8 0#16) := extractLsb'_eq_of_and_eq hw (by decide)
    rw [rsvField_commandWord] at hrsv
    rw [opField_commandWord] at hop
    rw [immField_commandWord] at himm
    exact eq_commandWord hrsv hop rfl himm
  · intro hw
    rw [hw]
    exact Laws.TableRow.handle_mask op (handleField w) 0#16

/-- The row of BUILD_SG (R85). -/
theorem exists_decode_eq_buildSg_iff (w : U32) :
    (∃ h, decode w = .legal (.buildSg h)) ↔ w &&& 0xFF00FFFF#32 = 0x40000000#32 := by
  have hpattern : 0x40000000#32 = commandWord opBuildSg 0#8 0#16 := by decide
  simp only [hpattern, and_handle_mask_eq_iff, decode_eq_legal_iff, encode]
  constructor
  · rintro ⟨h, rfl⟩
    rw [handleField_commandWord]
  · exact fun hw => ⟨handleField w, hw⟩

end Sys2Proof

namespace Sys2Proof.Machine

/- ==== The header and the frame ==== -/

/-- Settles O31: the header generator is a concatenation of literal length, so its layout is its definition read out. -/
theorem headerGeneratorLaysOutHeader : Obligations.HeaderGeneratorLaysOutHeader := by
  unfold Obligations.HeaderGeneratorLaysOutHeader
  exact fun P p1 p2 len d => ⟨rfl, length_headerGen P p1 p2 len d⟩

theorem totalLength_eq_length_flatten (segs : List (List Byte)) : totalLength segs = segs.flatten.length :=
  List.length_flatten.symm

/-- The chained data CRC is the CRC of the whole payload (R141). -/
theorem segmentsCrc_eq_crc16_flatten (P : Params) (segs : List (List Byte)) :
    segmentsCrc P segs = crc16 P segs.flatten 0x0000#16 := List.foldl_flatten.symm

/-- A frame depends on its segments through the payload they carry alone (R141). -/
theorem buildFrame_eq (P : Params) (c : Context) (segs : List (List Byte)) :
    buildFrame P c segs =
      headerGen P c.p1 c.p2 (BitVec.ofNat 16 segs.flatten.length) (crc16 P segs.flatten 0x0000#16) ++ segs.flatten := by
  rw [buildFrame, totalLength_eq_length_flatten, segmentsCrc_eq_crc16_flatten, joinSegments]

/-- The frame of an empty payload is a header with length and data CRC zero. -/
theorem buildFrame_of_flatten_eq_nil (P : Params) (c : Context) {segs : List (List Byte)} (hsegs : segs.flatten = []) :
    buildFrame P c segs = [c.p1, c.p2, 0x00#8, 0x00#8, 0x00#8, 0x00#8] ++
      be16 (crc16 P [c.p1, c.p2, 0x00#8, 0x00#8, 0x00#8, 0x00#8] 0x0000#16) := by
  have hzero : be16 0x0000#16 = [0x00#8, 0x00#8] := by decide
  rw [buildFrame_eq, hsegs, List.append_nil, List.length_nil, crc16_nil, headerGen, headerForming, hzero]
  rfl

/-- The frame of R143's example (BSG1). -/
theorem buildFrame_example {P : Params} {c : Context} (hP : P.crcReflected = false) (h1 : c.p1 = 0xAA#8)
    (h2 : c.p2 = 0x55#8) :
    buildFrame P c [[0x01#8, 0x02#8], [0x03#8]] =
      [0xAA#8, 0x55#8, 0x00#8, 0x03#8, 0x61#8, 0x31#8, 0x16#8, 0x76#8, 0x01#8, 0x02#8, 0x03#8] := by
  have hdata : crc16 P [0x01#8, 0x02#8, 0x03#8] 0x0000#16 = 0x6131#16 := by
    simp only [crc16_cons, crc16_nil, crcStep_forward hP]
    decide +kernel
  have hheader : crc16 P (headerForming 0xAA#8 0x55#8 0x0003#16 0x6131#16) 0x0000#16 = 0x1676#16 := by
    simp only [headerForming, be16, List.cons_append, List.nil_append, crc16_cons, crc16_nil, crcStep_forward hP]
    decide +kernel
  calc buildFrame P c [[0x01#8, 0x02#8], [0x03#8]]
    _ = headerGen P c.p1 c.p2 0x0003#16 (crc16 P [0x01#8, 0x02#8, 0x03#8] 0x0000#16) ++ [0x01#8, 0x02#8, 0x03#8] :=
        buildFrame_eq P c _
    _ = _ := by
        rw [h1, h2, hdata, headerGen, hheader]
        decide

/- ==== The checks ==== -/

/-- The segment count is within the limit (R145). -/
theorem segmentsExceed_eq_false_iff {limit : SegmentLimit} {n : Nat} :
    segmentsExceed limit n = false ↔ limit = .unbounded ∨ ∃ m, limit = .atMost m ∧ n ≤ m := by
  cases limit <;> simp [segmentsExceed]

/-- R143 asks for a limit before it compares; with none the comparison fails anyway. -/
theorem ne_unbounded_and_segmentsExceed_iff {limit : SegmentLimit} {n : Nat} :
    limit ≠ .unbounded ∧ segmentsExceed limit n = true ↔ segmentsExceed limit n = true := by
  cases limit <;> simp [segmentsExceed]

theorem segmentsExceed_atMost_of_lt {m n : Nat} (hmn : m < n) : segmentsExceed (.atMost m) n = true :=
  decide_eq_true hmn

section

variable {s : State} {h : Handle}

/-- A handle, a segment count or a total beyond its bound gives INVALID_ARGUMENT, whatever the checks after it would (R144,
R145, R147, R148). -/
theorem exec_buildSg_of_invalid
    (hbad : s.nCreated ≤ h.toNat ∨ segmentsExceed s.params.maxSegments s.operands.segs.length = true ∨
      65535 < totalLength s.operands.segs) :
    exec (.buildSg h) s = .next (s.respond { status := .invalidArgument, result := none }) := by
  rcases execBuildSg_cases h s with ⟨-, e⟩ | ⟨-, -, e⟩ | ⟨-, -, -, e⟩ | ⟨hv, hcount, htotal, -⟩ | ⟨hv, hcount, htotal, -⟩
  · exact e
  · exact e
  · exact e
  all_goals
    simp only [hcount, Bool.false_eq_true, false_or] at hbad
    omega

variable (hv : h.toNat < s.nCreated) (hcount : segmentsExceed s.params.maxSegments s.operands.segs.length = false)
  (htotal : totalLength s.operands.segs ≤ 65535)
include hv hcount htotal

/-- Past the checks that give INVALID_ARGUMENT the capacity decides between ALLOCATION_FAILURE and the frame (R146, R148). -/
theorem exec_buildSg_of_valid :
    (s.params.txMaxPayload < totalLength s.operands.segs ∧
      exec (.buildSg h) s = .next (s.respond { status := .allocationFailure, result := none })) ∨
    (totalLength s.operands.segs ≤ s.params.txMaxPayload ∧
      exec (.buildSg h) s = .next (s.respond
        { status := .ok, result := some (.frame (buildFrame s.params (s.ctx h.toNat) s.operands.segs)) })) := by
  rcases execBuildSg_cases h s with
    ⟨hn, -⟩ | ⟨-, hx, -⟩ | ⟨-, -, ho, -⟩ | ⟨-, -, -, hcap, e⟩ | ⟨-, -, -, hcap, e⟩
  · exact absurd hv (Nat.not_lt.mpr hn)
  · exact absurd (hx.symm.trans hcount) (by decide)
  · exact absurd ho (Nat.not_lt.mpr htotal)
  · exact .inl ⟨hcap, e⟩
  · exact .inr ⟨hcap, e⟩

theorem exec_buildSg_of_over_capacity (hcap : s.params.txMaxPayload < totalLength s.operands.segs) :
    exec (.buildSg h) s = .next (s.respond { status := .allocationFailure, result := none }) := by
  rcases exec_buildSg_of_valid hv hcount htotal with ⟨-, e⟩ | ⟨hfits, -⟩
  · exact e
  · exact absurd hcap (Nat.not_lt.mpr hfits)

theorem exec_buildSg_of_fits (hfits : totalLength s.operands.segs ≤ s.params.txMaxPayload) :
    exec (.buildSg h) s = .next (s.respond
      { status := .ok, result := some (.frame (buildFrame s.params (s.ctx h.toNat) s.operands.segs)) }) := by
  rcases exec_buildSg_of_valid hv hcount htotal with ⟨hcap, -⟩ | ⟨-, e⟩
  · exact absurd hcap (Nat.not_lt.mpr hfits)
  · exact e

end

/-- Settles O33: each clause is a failing check, or all of them passed; which of two INVALID_ARGUMENT checks fails first
does not show. -/
theorem buildSgChecksInOrder : Obligations.BuildSgChecksInOrder := by
  unfold Obligations.BuildSgChecksInOrder
  refine ⟨fun s h hn => ?handle, fun s h m _ hmax hm => ?count, fun s h _ ho => ?overflow,
    fun s h hv hlimit htotal hcap => ?capacity, fun s h hv hmax htotal hfits => ?fits⟩
  case handle => exact exec_buildSg_of_invalid (.inl hn)
  case count => exact exec_buildSg_of_invalid (.inr (.inl (hmax ▸ segmentsExceed_atMost_of_lt hm)))
  case overflow => exact exec_buildSg_of_invalid (.inr (.inr ho))
  case capacity => exact exec_buildSg_of_over_capacity hv (segmentsExceed_eq_false_iff.mpr hlimit) htotal hcap
  case fits => exact ⟨_, exec_buildSg_of_fits hv (segmentsExceed_eq_false_iff.mpr (.inl hmax)) htotal hfits⟩

/-- Settles O32: on the normal path the frame is that of the whole payload, which `buildFrame_eq` lays out; the pseudocode
takes its branches where the checks do. -/
theorem buildSgReturnsFrameOfPayload : Obligations.BuildSgReturnsFrameOfPayload := by
  unfold Obligations.BuildSgReturnsFrameOfPayload
  refine ⟨fun s h hv hcount htotal hfits => ?frame, fun s h => ?pseudocode, exists_decode_eq_buildSg_iff,
    fun s h hv hmax hempty => ?empty, fun s hv hmax hP hfits h1 h2 => ?rule_example⟩
  case frame =>
    rw [← totalLength_eq_length_flatten] at htotal hfits
    have hexec := exec_buildSg_of_fits hv hcount htotal hfits
    rw [buildFrame_eq] at hexec
    exact ⟨_, hexec, rfl, rfl, rfl, rfl, rfl, by rw [List.length_append, length_headerGen]⟩
  case pseudocode =>
    simp only [ne_unbounded_and_segmentsExceed_iff]
    split_ifs with hv hcount ho hcap
    · exact exec_buildSg_of_invalid (.inr (.inl hcount))
    · exact exec_buildSg_of_invalid (.inr (.inr ho))
    · exact exec_buildSg_of_over_capacity hv (Bool.eq_false_iff.mpr hcount) (Nat.not_lt.mp ho) hcap
    · exact exec_buildSg_of_fits hv (Bool.eq_false_iff.mpr hcount) (Nat.not_lt.mp ho) (Nat.not_lt.mp hcap)
    · exact exec_buildSg_of_invalid (.inl (Nat.not_lt.mp hv))
  case empty =>
    have htotal : totalLength s.operands.segs = 0 := by rw [totalLength_eq_length_flatten, hempty]; rfl
    have hexec := exec_buildSg_of_fits hv (segmentsExceed_eq_false_iff.mpr (.inl hmax)) (by omega) (by omega)
    rw [buildFrame_of_flatten_eq_nil _ _ hempty] at hexec
    exact ⟨_, hexec⟩
  case rule_example =>
    have hexec := exec_buildSg_of_fits (s := s.withSegs [[0x01#8, 0x02#8], [0x03#8]]) (h := 0#8) hv
      (segmentsExceed_eq_false_iff.mpr (.inl hmax)) (by decide : 3 ≤ 65535) hfits
    rw [← buildFrame_example hP h1 h2]
    exact hexec

end Sys2Proof.Machine
end

section
/-!
PROOFS. The receiver byte by byte (43_receiver.md): the next context and the event of each parse state (R163-R181), and where
a retained buffer is released.
-/

namespace Sys2Proof.Machine

/-- Settles O38: the two search states by their definitions; SEEK_P2 tests preamble_2 first. -/
theorem preambleSearchSteps : Obligations.PreambleSearchSteps := by
  unfold Obligations.PreambleSearchSteps
  refine fun P c h tok b => ⟨fun hs => ?seekP1, fun hs => ?seekP2⟩
  case seekP1 =>
    rw [rxStep_of_seekP1 hs, rxSeekP1]
    exact ⟨fun hb => if_pos hb, fun hb => if_neg hb⟩
  case seekP2 =>
    rw [rxStep_of_seekP2 hs, rxSeekP2]
    exact ⟨fun hb => if_pos hb, fun hb2 hb1 => (if_neg hb2).trans (if_pos hb1),
      fun hb2 hb1 => (if_neg hb2).trans (if_neg hb1)⟩

/-- Settles O39: no header state but HCRC_LO tests its byte. -/
theorem headerBytesAreStagedInOrder : Obligations.HeaderBytesAreStagedInOrder := by
  unfold Obligations.HeaderBytesAreStagedInOrder
  exact fun P c h tok b =>
    ⟨rxStep_of_lenHi, rxStep_of_lenLo, rxStep_of_dcrcHi, rxStep_of_dcrcLo, rxStep_of_hcrcHi⟩

section
variable {TOKEN : Type} {P : Params} {c c' : Context} {h : Handle} {tok : TOKEN} {b : Byte} {e : Event.Of TOKEN}

/- ==== The header check ==== -/

/-- The header CRC received with the byte `b` is that of the six staged bytes (R170). -/
def HeaderMatches (P : Params) (c : Context) (b : Byte) : Prop :=
  crc16 P c.hdr.forming 0x0000#16 = c.hcrcExp ||| b.zeroExtend 16

/-- A header whose CRC differs is dropped (R171). -/
theorem rxStep_of_header_mismatch (hs : c.st = .hcrcLo) (hcrc : ¬ HeaderMatches P c b) :
    rxStep P c h tok b = ({ stageHcrcLo c b with st := .seekP1 }, some (plainEvent h tok .headerCrcError)) :=
  (rxStep_of_hcrcLo hs).trans (if_pos hcrc)

/-- A header whose CRC is right is accepted (R170). -/
theorem rxStep_of_header_match (hs : c.st = .hcrcLo) (hcrc : HeaderMatches P c b) :
    rxStep P c h tok b = acceptHeader P (stageHcrcLo c b) h tok :=
  (rxStep_of_hcrcLo hs).trans (if_neg (not_not.mpr hcrc))

/-- The payload length validator comes before everything but the release (R176). -/
theorem acceptHeader_of_too_long (hlen : P.maxPayload < c.len.toNat) :
    acceptHeader P c h tok = ({ releaseBuffer c with st := .seekP1 }, some (plainEvent h tok .packetLengthError)) :=
  if_pos hlen

/-- A zero-length frame completes without a DATA state (R178). -/
theorem acceptHeader_of_zero (hlen : c.len.toNat ≤ P.maxPayload) (hzero : c.len = 0x0000#16) :
    acceptHeader P c h tok = completeEmpty (releaseBuffer c) h tok :=
  (if_neg (Nat.not_lt.mpr hlen)).trans (if_pos hzero)

/-- Any other length within the capacity leads to DATA (R175). -/
theorem acceptHeader_of_nonzero (hlen : c.len.toNat ≤ P.maxPayload) (hzero : c.len ≠ 0x0000#16) :
    acceptHeader P c h tok = ({ releaseBuffer c with st := .data }, none) :=
  (if_neg (Nat.not_lt.mpr hlen)).trans (if_neg hzero)

/-- Outside HCRC_LO and DATA a byte leaves the hidden bit as it is, and emits nothing but PREAMBLE_DETECTED (R163-R169). -/
theorem rxStep_of_ne_hcrcLo_of_ne_data (hh : c.st ≠ .hcrcLo) (hd : c.st ≠ .data) :
    (rxStep P c h tok b).1.rxHeld = c.rxHeld ∧
      ((rxStep P c h tok b).2 = none ∨ (rxStep P c h tok b).2 = some (plainEvent h tok .preambleDetected)) := by
  cases hs : c.st with
  | seekP1 => rw [rxStep_of_seekP1 hs, rxSeekP1]; split <;> exact ⟨rfl, .inl rfl⟩
  | seekP2 =>
    rw [rxStep_of_seekP2 hs, rxSeekP2]
    split_ifs
    · exact ⟨rfl, .inr rfl⟩
    · exact ⟨rfl, .inl rfl⟩
    · exact ⟨rfl, .inl rfl⟩
  | lenHi => rw [rxStep_of_lenHi hs]; exact ⟨rfl, .inl rfl⟩
  | lenLo => rw [rxStep_of_lenLo hs]; exact ⟨rfl, .inl rfl⟩
  | dcrcHi => rw [rxStep_of_dcrcHi hs]; exact ⟨rfl, .inl rfl⟩
  | dcrcLo => rw [rxStep_of_dcrcLo hs]; exact ⟨rfl, .inl rfl⟩
  | hcrcHi => rw [rxStep_of_hcrcHi hs]; exact ⟨rfl, .inl rfl⟩
  | hcrcLo => exact absurd hs hh
  | data => exact absurd hs hd

/-- DATA never clears the hidden bit: it keeps it, or sets it on a data CRC mismatch (R181). -/
theorem rxData_keeps_rxHeld (hheld : c.rxHeld = true) : (rxData P c h tok b).1.rxHeld = true := by
  rcases rxData_cases (P := P) (c := c) (h := h) (tok := tok) (b := b) _ rfl with
    ⟨-, e1⟩ | ⟨-, -, e1⟩ | ⟨-, -, e1⟩ <;> rw [e1]
  · exact hheld
  · exact hheld

/-- A retained buffer is released by a header match and by nothing else (R177, R32). -/
theorem header_matches_of_rxStep_releases (hheld : c.rxHeld = true) (hfree : (rxStep P c h tok b).1.rxHeld = false) :
    c.st = .hcrcLo ∧ HeaderMatches P c b := by
  by_cases hs : c.st = .hcrcLo
  · by_contra hno
    have hcrc : ¬ HeaderMatches P c b := fun hm => hno ⟨hs, hm⟩
    rw [rxStep_of_header_mismatch hs hcrc] at hfree
    exact absurd (hheld.symm.trans hfree) (by decide)
  · exfalso
    by_cases hd : c.st = .data
    · rw [rxStep_of_data hd, rxData_keeps_rxHeld hheld] at hfree
      exact absurd hfree (by decide)
    · rw [(rxStep_of_ne_hcrcLo_of_ne_data hs hd).1, hheld] at hfree
      exact absurd hfree (by decide)

/-- PACKET_LENGTH_ERROR is emitted by the length validator alone (R176). -/
theorem too_long_of_rxStep_packetLengthError (he : rxStep P c h tok b = (c', some e)) (hk : e.kind = .packetLengthError) :
    P.maxPayload < c.len.toNat := by
  by_cases hs : c.st = .hcrcLo
  · rw [rxStep_of_hcrcLo hs] at he
    rcases rxHcrcLo_cases (P := P) (h := h) (tok := tok) (stageHcrcLo c b) rfl with
      ⟨-, e1⟩ | ⟨-, hlong, -⟩ | ⟨-, -, e1⟩ | ⟨-, -, -, e1⟩
    · cases e1.symm.trans he
      cases hk
    · exact hlong
    · rcases completeEmpty_cases (c := releaseBuffer (stageHcrcLo c b)) (h := h) (tok := tok) with ⟨-, e2⟩ | ⟨-, e2⟩ <;>
        cases (e1.trans e2).symm.trans he <;> cases hk
    · cases e1.symm.trans he
  · by_cases hd : c.st = .data
    · rw [rxStep_of_data hd] at he
      rcases rxData_cases (P := P) (c := c) (h := h) (tok := tok) (b := b) _ rfl with
        ⟨-, e1⟩ | ⟨-, -, e1⟩ | ⟨-, -, e1⟩ <;> cases e1.symm.trans he <;> cases hk
    · rcases (rxStep_of_ne_hcrcLo_of_ne_data (P := P) (h := h) (tok := tok) (b := b) hs hd).2 with e1 | e1 <;>
        cases (congrArg Prod.snd he).symm.trans e1
      cases hk

end

/-- Settles O40: HCRC_LO compares the CRC of the six staged bytes with the expected one. -/
theorem headerCrcMismatchRestartsSearch : Obligations.HeaderCrcMismatchRestartsSearch := by
  unfold Obligations.HeaderCrcMismatchRestartsSearch
  exact fun P c h tok b hs => ⟨fun hcrc => rxStep_of_header_mismatch hs hcrc, fun hcrc => rxStep_of_header_match hs hcrc⟩

/-- Settles O41: the branches of an accepted header in their order; only it releases a buffer; and no 16-bit length is above
65535. -/
theorem matchedHeaderIsValidatedAndAccepted : Obligations.MatchedHeaderIsValidatedAndAccepted := by
  unfold Obligations.MatchedHeaderIsValidatedAndAccepted
  refine ⟨fun P c h tok b hs hcrc => ?accepted, fun P c h tok b hheld hfree => ?released,
    fun P c c' h tok b e hmax he hk => ?neverTooLong⟩
  case accepted =>
    rw [rxStep_of_header_match hs hcrc]
    let d := stageHcrcLo c b
    exact ⟨releaseBuffer d, rfl, fun hlong => acceptHeader_of_too_long (c := d) hlong,
      fun hlen hzero hdata => (acceptHeader_of_zero (c := d) hlen hzero).trans (if_pos hdata),
      fun hlen hzero hdata => (acceptHeader_of_zero (c := d) hlen hzero).trans (if_neg hdata),
      fun hlen hzero => acceptHeader_of_nonzero (c := d) hlen hzero⟩
  case released => exact header_matches_of_rxStep_releases hheld hfree
  case neverTooLong =>
    have hlong : P.maxPayload < c.len.toNat := too_long_of_rxStep_packetLengthError he hk
    have hwidth := c.len.isLt
    omega

/- ==== The payload ==== -/

section
variable {TOKEN : Type} {P : Params} {c : Context} {h : Handle} {tok : TOKEN} {b : Byte}

/-- A payload byte that is not the last is collected (R179). -/
theorem rxStep_of_payload_incomplete (hs : c.st = .data) (hlen : c.rx.length + 1 ≠ c.len.toNat) :
    rxStep P c h tok b = ({ c with rx := c.rx ++ [b], rxCrc := crcStep P c.rxCrc b }, none) := by
  have hmore : (c.rx ++ [b]).length ≠ c.len.toNat := by simpa using hlen
  exact (rxStep_of_data hs).trans (if_neg hmore)

/-- The last payload byte completes the payload (R179). -/
theorem rxStep_of_payload_complete (hs : c.st = .data) (hlen : c.rx.length + 1 = c.len.toNat) :
    rxStep P c h tok b = completePayload { c with rx := c.rx ++ [b], rxCrc := crcStep P c.rxCrc b } h tok := by
  have hlast : (c.rx ++ [b]).length = c.len.toNat := by simpa using hlen
  exact (rxStep_of_data hs).trans (if_pos hlast)

end

/-- Settles O42: DATA collects until `len` bytes are there, and then compares the data CRC. -/
theorem payloadIsCollectedAndChecked : Obligations.PayloadIsCollectedAndChecked := by
  unfold Obligations.PayloadIsCollectedAndChecked
  exact fun P c h tok b hs => ⟨fun hlen => rxStep_of_payload_incomplete hs hlen,
    fun hlen hcrc => (rxStep_of_payload_complete hs hlen).trans (if_pos hcrc),
    fun hlen hcrc => (rxStep_of_payload_complete hs hlen).trans (if_neg hcrc)⟩

end Sys2Proof.Machine
end

section
/-!
PROOFS. The FEED command (R160): the loop over its bytes, the events it emits, and a whole frame fed from SEEK_P1.
-/

namespace Sys2Proof

/-- The row of FEED (R85). -/
theorem exists_decode_eq_feed_iff (w : U32) :
    (∃ h, decode w = .legal (.feed h)) ↔ w &&& 0xFF00FFFF#32 = 0x30000000#32 := by
  have hpattern : 0x30000000#32 = commandWord opFeed 0#8 0#16 := by decide
  simp only [hpattern, and_handle_mask_eq_iff, decode_eq_legal_iff, encode]
  constructor
  · rintro ⟨h, rfl⟩
    rw [handleField_commandWord]
  · exact fun hw => ⟨handleField w, hw⟩

end Sys2Proof

namespace Sys2Proof.Machine

section
variable {TOKEN : Type} {P : Params} {c : Context} {h : Handle} {tok : TOKEN}

/- ==== The loop ==== -/

/-- One turn of FEED's loop (R160): the context and the events so far take one byte more. -/
def feedTurn (P : Params) (h : Handle) (tok : TOKEN) (acc : Context × List (Event.Of TOKEN)) (b : Byte) :
    Context × List (Event.Of TOKEN) :=
  ((rxStep P acc.1 h tok b).1, acc.2 ++ (rxStep P acc.1 h tok b).2.toList)

/-- The loop of R160 ends in the context `feedBytes` gives, and has added its events. -/
theorem foldl_feedTurn (c : Context) (evs : List (Event.Of TOKEN)) (bs : List Byte) :
    bs.foldl (feedTurn P h tok) (c, evs) = ((feedBytes P c h tok bs).1, evs ++ (feedBytes P c h tok bs).2) := by
  induction bs generalizing c evs with
  | nil => simp
  | cons b bs ih => rw [List.foldl_cons, feedTurn, ih, feedBytes_cons, List.append_assoc]

/-- A chunk cut in two is fed part by part (R183). -/
theorem feedBytes_append (c : Context) (A B : List Byte) :
    feedBytes P c h tok (A ++ B) =
      ((feedBytes P (feedBytes P c h tok A).1 h tok B).1,
        (feedBytes P c h tok A).2 ++ (feedBytes P (feedBytes P c h tok A).1 h tok B).2) := by
  induction A generalizing c with
  | nil => rfl
  | cons b bs ih => rw [List.cons_append, feedBytes_cons, feedBytes_cons, ih, List.append_assoc]

/-- Every event carries the handle and the token of its FEED (R80, R82). -/
theorem handle_token_of_rxStep_emits {b : Byte} {e : Event.Of TOKEN} (he : (rxStep P c h tok b).2 = some e) :
    e.handle = h ∧ e.token = tok := by
  rcases rxStep_emitsAs (Prod.ext rfl he) with ⟨kind, -, rfl⟩ | ⟨-, rfl, -⟩
  · exact ⟨rfl, rfl⟩
  · exact ⟨rfl, rfl⟩

theorem handle_token_of_mem_feedBytes (bs : List Byte) :
    ∀ e ∈ (feedBytes P c h tok bs).2, e.handle = h ∧ e.token = tok := by
  induction bs generalizing c with
  | nil => simp
  | cons b bs ih =>
    intro e he
    rw [feedBytes_cons, List.mem_append, Option.mem_toList] at he
    exact he.elim handle_token_of_rxStep_emits (ih e)

/- ==== A whole frame ==== -/

/-- A context in HCRC_LO that has staged all of the header `m` but its last byte (R164-R169). -/
def Context.stagedToHcrcLo (c : Context) (m : Header) : Context :=
  { c with
    st := .hcrcLo, len := join16 m.b2 m.b3, hdr := { m with b7 := c.hdr.b7 }, hcrcExp := m.b6.zeroExtend 16 <<< 8 }

/-- A context in DATA that has accepted the header `m` (R175, R177). -/
def Context.accepted (c : Context) (m : Header) : Context :=
  { c with
    st := .data, len := join16 m.b2 m.b3, hdr := m, hcrcExp := join16 m.b6 m.b7, rx := [], rxCrc := 0x0000#16,
    rxHeld := false }

/-- From SEEK_P1 the seven bytes up to HCRC_LO are staged and emit PREAMBLE_DETECTED, the last five whatever their values
(R163-R169). -/
theorem feedBytes_toHcrcLo {m : Header} (hs : c.st = .seekP1) (h0 : m.b0 = c.p1) (h1 : m.b1 = c.p2) :
    feedBytes P c h tok [m.b0, m.b1, m.b2, m.b3, m.b4, m.b5, m.b6] =
      (c.stagedToHcrcLo m, [plainEvent h tok .preambleDetected]) := by
  have first : rxStep P c h tok m.b0 = ({ c with st := .seekP2 }, none) := (rxStep_of_seekP1 hs).trans (if_pos h0)
  have second : rxStep P { c with st := .seekP2 } h tok m.b1 =
      ({ c with hdr := { c.hdr with b0 := m.b0, b1 := m.b1 }, st := .lenHi },
        some (plainEvent h tok .preambleDetected)) := by
    rw [rxStep_of_seekP2 rfl, rxSeekP2, if_pos h1, h0, h1]
  rw [feedBytes_cons, first, feedBytes_cons, second]
  rfl

/-- A header whose CRC is right and whose length the buffer holds leads to DATA, with PREAMBLE_DETECTED as its event. -/
theorem feedBytes_header {m : Header} (hs : c.st = .seekP1) (h0 : m.b0 = c.p1) (h1 : m.b1 = c.p2)
    (hcrc : crc16 P m.forming 0x0000#16 = join16 m.b6 m.b7) (hfits : (join16 m.b2 m.b3).toNat ≤ P.maxPayload)
    (hpos : join16 m.b2 m.b3 ≠ 0x0000#16) :
    feedBytes P c h tok m.toList = (c.accepted m, [plainEvent h tok .preambleDetected]) := by
  have hmatch : HeaderMatches P (c.stagedToHcrcLo m) m.b7 := hcrc
  have last : rxStep P (c.stagedToHcrcLo m) h tok m.b7 = (c.accepted m, none) :=
    (rxStep_of_header_match rfl hmatch).trans (acceptHeader_of_nonzero hfits hpos)
  have hlist : m.toList = [m.b0, m.b1, m.b2, m.b3, m.b4, m.b5, m.b6] ++ [m.b7] := rfl
  rw [hlist, feedBytes_append, feedBytes_toHcrcLo hs h0 h1, feedBytes_cons, last]
  rfl

/-- DATA collects a chunk that does not complete the payload (R179). -/
theorem feedBytes_payload_incomplete {bs : List Byte} (hs : c.st = .data) (hlen : c.rx.length + bs.length < c.len.toNat) :
    feedBytes P c h tok bs = ({ c with rx := c.rx ++ bs, rxCrc := crc16 P bs c.rxCrc }, []) := by
  induction bs generalizing c with
  | nil => simp
  | cons b bs ih =>
    rw [List.length_cons] at hlen
    have hmore : c.rx.length + 1 ≠ c.len.toNat := by omega
    have hrest : (c.rx ++ [b]).length + bs.length < c.len.toNat := by
      rw [List.length_append, List.length_singleton]
      omega
    have rest := ih (c := { c with rx := c.rx ++ [b], rxCrc := crcStep P c.rxCrc b }) hs hrest
    rw [feedBytes_cons, rxStep_of_payload_incomplete hs hmore, rest, List.append_assoc, crc16_cons]
    rfl

/-- A frame with a payload, fed from SEEK_P1, is delivered, and the search begins again (R180). -/
theorem feedBytes_frame {m : Header} {body : List Byte} {last : Byte} (hs : c.st = .seekP1) (h0 : m.b0 = c.p1)
    (h1 : m.b1 = c.p2) (hcrc : crc16 P m.forming 0x0000#16 = join16 m.b6 m.b7)
    (hlen : body.length + 1 = (join16 m.b2 m.b3).toNat) (hfits : body.length + 1 ≤ P.maxPayload)
    (hdata : crc16 P (body ++ [last]) 0x0000#16 = join16 m.b4 m.b5) :
    feedBytes P c h tok (m.toList ++ (body ++ [last])) =
      ({ c.accepted m with st := .seekP1 },
        [plainEvent h tok .preambleDetected, validDataEvent h tok m (body ++ [last])]) := by
  have hpos : join16 m.b2 m.b3 ≠ 0x0000#16 := by
    intro hzero
    rw [hzero] at hlen
    exact absurd hlen (Nat.succ_ne_zero _)
  have header := feedBytes_header (P := P) (h := h) (tok := tok) hs h0 h1 hcrc (hlen ▸ hfits) hpos
  have collected : feedBytes P (c.accepted m) h tok body =
      ({ c.accepted m with rx := body, rxCrc := crc16 P body 0x0000#16 }, []) :=
    feedBytes_payload_incomplete rfl ((Nat.zero_add _).trans_lt (Nat.lt_of_succ_le hlen.le))
  have delivered : rxStep P { c.accepted m with rx := body, rxCrc := crc16 P body 0x0000#16 } h tok last =
      ({ c.accepted m with st := .seekP1 }, some (validDataEvent h tok m (body ++ [last]))) :=
    (rxStep_of_payload_complete rfl hlen).trans (if_pos ((crc16_append P body [last] _).symm.trans hdata))
  rw [feedBytes_append, header, feedBytes_append, collected, feedBytes_cons, delivered]
  rfl

end

/- ==== The command ==== -/

theorem exec_feed_of_invalid {s : State} {h : Handle} (hv : s.nCreated ≤ h.toNat) :
    exec (.feed h) s = .next (s.respond { status := .invalidInstance, result := none }) := by
  rcases execFeed_cases h s with ⟨-, e⟩ | ⟨hlt, -⟩
  · exact e
  · exact absurd hlt (Nat.not_lt.mpr hv)

/-- FEED on a valid handle stores the context its bytes lead to and returns their events. -/
theorem exec_feed_of_valid {s : State} {h : Handle} {c : Context} {evs : List Event} (hv : h.toNat < s.nCreated)
    (hfed : feedBytes s.params (s.ctx h.toNat) h s.operands.token s.operands.data = (c, evs)) :
    exec (.feed h) s = .next ((s.setCtx h.toNat c).respond { status := .ok, result := some (.events evs) }) := by
  rcases execFeed_cases h s with ⟨hle, -⟩ | ⟨-, e⟩
  · exact absurd hv (Nat.not_lt.mpr hle)
  · rw [hfed] at e
    exact e

theorem newEvents_respond_events {s t : State} (evs : List Event) (ht : t.responses = s.responses) :
    newEvents s (t.respond { status := .ok, result := some (.events evs) }) = evs := by
  rw [newEvents, newResponses_respond _ ht]
  exact List.append_nil evs

/-- The frame of R160's example is delivered. -/
theorem feedBytes_example {P : Params} {c : Context} (h : Handle) (tok : Token) (hP : P.crcReflected = false)
    (hfits : 3 ≤ P.maxPayload) (h0 : c.p1 = 0xAA#8) (h1 : c.p2 = 0x55#8) (hs : c.st = .seekP1) :
    ∃ c' : Context, c'.st = .seekP1 ∧
      feedBytes P c h tok [0xAA#8, 0x55#8, 0x00#8, 0x03#8, 0x61#8, 0x31#8, 0x16#8, 0x76#8, 0x01#8, 0x02#8, 0x03#8] =
        (c', [plainEvent h tok .preambleDetected,
          validDataEvent h tok ⟨0xAA#8, 0x55#8, 0x00#8, 0x03#8, 0x61#8, 0x31#8, 0x16#8, 0x76#8⟩
            [0x01#8, 0x02#8, 0x03#8]]) := by
  have hcrc : crc16 P [0xAA#8, 0x55#8, 0x00#8, 0x03#8, 0x61#8, 0x31#8] 0x0000#16 = join16 0x16#8 0x76#8 := by
    simp only [crc16_cons, crc16_nil, crcStep_forward hP]
    decide +kernel
  have hdata : crc16 P [0x01#8, 0x02#8, 0x03#8] 0x0000#16 = join16 0x61#8 0x31#8 := by
    simp only [crc16_cons, crc16_nil, crcStep_forward hP]
    decide +kernel
  exact ⟨_, rfl, feedBytes_frame (m := ⟨0xAA#8, 0x55#8, 0x00#8, 0x03#8, 0x61#8, 0x31#8, 0x16#8, 0x76#8⟩)
    (body := [0x01#8, 0x02#8]) (last := 0x03#8) hs h0.symm h1.symm hcrc (by decide) hfits hdata⟩

/-- Settles O36: the loop is `feedBytes`, whose events and preambles are known; the words by the mask of their row; and the
example is a whole frame. -/
theorem feedRunsEveryByteThroughContext : Obligations.FeedRunsEveryByteThroughContext := by
  unfold Obligations.FeedRunsEveryByteThroughContext
  refine ⟨fun s h hv => exec_feed_of_invalid hv, fun s h hv => ?loop, exists_decode_eq_feed_iff,
    fun s tok inv hv hP hfits h0 h1 hs => ?rule_example⟩
  case loop =>
    exact ⟨_, _, foldl_feedTurn (s.ctx h.toNat) [] s.operands.data, exec_feed_of_valid hv rfl,
      handle_token_of_mem_feedBytes s.operands.data, feedBytes_preambles _ _ _ _ _⟩
  case rule_example =>
    obtain ⟨c, hc, hfed⟩ := feedBytes_example 0#8 tok hP hfits h0 h1 hs
    obtain ⟨-, hslots, hle, -⟩ := inv
    have hslot : 0 < s.slots.length := hslots ▸ hv.trans_le hle
    refine ⟨_, exec_feed_of_valid hv hfed, newEvents_respond_events _ rfl, ?_⟩
    exact (congrArg Context.st (State.Of.setCtx_ctx_self _ 0 c hslot)).trans hc

end Sys2Proof.Machine
end

section
/-!
PROOFS. A context stalls until it is fed (R185): no command writes a created context but a FEED of it that has data.
-/

namespace Sys2Proof.Machine

/-- From `s` to `t` context `k` stays created, and every field of it stays as it was. -/
def KeepsContext (k : Nat) (s t : State) : Prop := k < t.nCreated ∧ t.ctx k = s.ctx k

/-- CREATE writes only the slot past the created ones. -/
theorem exec_create_keepsContext {s t : State} {k : Nat} {p1 p2 : Byte} (hk : k < s.nCreated)
    (ht : exec (.create p1 p2) s = .next t) : KeepsContext k s t := by
  by_cases hfull : s.nCreated = s.params.maxInstances
  · cases (exec_create_of_full hfull p1 p2).symm.trans ht
    exact ⟨hk, rfl⟩
  · cases (exec_create_of_free hfull p1 p2).symm.trans ht
    exact ⟨Nat.lt_succ_of_lt hk, s.setCtx_ctx_of_ne s.nCreated k _ hk.ne⟩

/-- FEED writes only the context it feeds, and with no data writes back what that held (R161). -/
theorem exec_feed_keepsContext {s t : State} {g h : Handle} (hk : h.toNat < s.nCreated)
    (hfeed : g ≠ h ∨ s.operands.data = []) (ht : exec (.feed g) s = .next t) : KeepsContext h.toNat s t := by
  by_cases hg : g.toNat < s.nCreated
  · cases (exec_feed_of_valid hg rfl).symm.trans ht
    refine ⟨hk, ?_⟩
    rcases hfeed with hne | hdata
    · exact s.setCtx_ctx_of_ne _ _ _ (BitVec.toNat_ne.mp hne).symm
    · rw [hdata, feedBytes_nil, State.Of.setCtx_ctx_eq_self]
      rfl
  · cases (exec_feed_of_invalid (Nat.not_lt.mp hg)).symm.trans ht
    exact ⟨hk, rfl⟩

/-- Every command but a FEED of `h` with data keeps context `h`. -/
theorem exec_keepsContext {s t : State} {i : Instr} {h : Handle} (hk : h.toNat < s.nCreated)
    (hfeed : i ≠ .feed h ∨ s.operands.data = []) (ht : exec i s = .next t) : KeepsContext h.toNat s t := by
  cases i with
  | create p1 p2 => exact exec_create_keepsContext hk ht
  | crc start =>
    cases (exec_crc start s).symm.trans ht
    exact ⟨hk, rfl⟩
  | feed g => exact exec_feed_keepsContext hk (hfeed.imp_left fun hne hg => hne (congrArg Instr.feed hg)) ht
  | buildSg g =>
    obtain ⟨r, e⟩ := execBuildSg_respond g s
    cases e.symm.trans ht
    exact ⟨hk, rfl⟩

/-- Settles O47: an idle step changes nothing, an illegal word only answers, and a legal one is a command that keeps the
context. -/
theorem contextStallsUntilFed : Obligations.ContextStallsUntilFed := by
  unfold Obligations.ContextStallsUntilFed
  intro s t h _ hk ht hquiet
  rcases hquiet with hidle | ⟨w, ops, rest, hp, hfeed⟩
  · have hstep : step s = .next s := by simp [step, hidle]
    cases hstep.symm.trans ht
    exact ⟨hk, rfl⟩
  · cases hd : decode w with
    | legal i =>
      have hi : i ≠ .feed h ∨ ops.data = [] := hfeed.imp_left fun hw hi => hw (hd.trans (congrArg _ hi))
      exact exec_keepsContext (s := s.accept ops rest) hk hi ((step_of_decode_legal hp hd).symm.trans ht)
    | illegal why =>
      cases (step_of_decode_illegal hp hd).symm.trans ht
      exact ⟨hk, rfl⟩

end Sys2Proof.Machine
end

section
/-!
PROOFS. The failing statuses (R201) in the order of their checks (R204).
-/

namespace Sys2Proof.Machine

/-- What BUILD_SG answers with INVALID_ARGUMENT: the first three of its checks (R148). -/
abbrev BadArgument (s : State) (h : Handle) : Prop :=
  s.nCreated ≤ h.toNat ∨ segmentsExceed s.params.maxSegments s.operands.segs.length = true ∨
    65535 < totalLength s.operands.segs

theorem not_badArgument_iff {s : State} {h : Handle} : ¬ BadArgument s h ↔
    h.toNat < s.nCreated ∧ segmentsExceed s.params.maxSegments s.operands.segs.length = false ∧
      totalLength s.operands.segs ≤ 65535 := by
  rw [not_or, not_or, not_le, Bool.not_eq_true, not_lt]

/-- The status of the first check that fails for a decoded word with the operands of `s`, in the order of R204; OK when none
does. -/
def firstFailure (s : State) : Decoded → Status
  | .illegal _ => .illegalCommand
  | .legal (.create _ _) => if s.nCreated = s.params.maxInstances then .capacityExceeded else .ok
  | .legal (.crc _) => .ok
  | .legal (.feed h) => if s.nCreated ≤ h.toNat then .invalidInstance else .ok
  | .legal (.buildSg h) =>
    if BadArgument s h then .invalidArgument
    else if s.params.txMaxPayload < totalLength s.operands.segs then .allocationFailure
    else .ok

/-- From `s` to `t` a command is answered with the status `st`; if that is a failing one there is no result, and nothing
changes but the port (R203). -/
def AnswersStatus (s t : State) (st : Status) : Prop :=
  ∃ r : Response, t.responses = s.responses ++ [r] ∧ r.status = st ∧
    (st ≠ .ok → r.result = none ∧ t.nCreated = s.nCreated ∧ t.slots = s.slots ∧ t.params = s.params)

theorem answersStatus_respond_failing (s : State) (st : Status) :
    AnswersStatus s (s.respond { status := st, result := none }) st :=
  ⟨_, rfl, rfl, fun _ => ⟨rfl, rfl, rfl, rfl⟩⟩

theorem answersStatus_respond_ok {s u : State} {x : Option Result} (hu : u.responses = s.responses) :
    AnswersStatus s (u.respond { status := .ok, result := x }) .ok :=
  ⟨_, congrArg (· ++ _) hu, rfl, fun hok => absurd rfl hok⟩

/-- Every command answers with the status of its first failing check. -/
theorem exec_answersStatus (i : Instr) (s : State) :
    ∃ t, exec i s = .next t ∧ AnswersStatus s t (firstFailure s (.legal i)) := by
  cases i with
  | create p1 p2 =>
    simp only [firstFailure]
    split_ifs with hfull
    · exact ⟨_, exec_create_of_full hfull p1 p2, answersStatus_respond_failing s _⟩
    · exact ⟨_, exec_create_of_free hfull p1 p2, answersStatus_respond_ok rfl⟩
  | crc start => exact ⟨_, exec_crc start s, answersStatus_respond_ok rfl⟩
  | feed h =>
    simp only [firstFailure]
    split_ifs with hn
    · exact ⟨_, exec_feed_of_invalid hn, answersStatus_respond_failing s _⟩
    · exact ⟨_, exec_feed_of_valid (Nat.not_le.mp hn) rfl, answersStatus_respond_ok rfl⟩
  | buildSg h =>
    simp only [firstFailure]
    split_ifs with hbad hcap
    · exact ⟨_, exec_buildSg_of_invalid hbad, answersStatus_respond_failing s _⟩
    all_goals obtain ⟨hv, hcount, htotal⟩ := not_badArgument_iff.mp hbad
    · exact ⟨_, exec_buildSg_of_over_capacity hv hcount htotal hcap, answersStatus_respond_failing s _⟩
    · exact ⟨_, exec_buildSg_of_fits hv hcount htotal (Nat.not_lt.mp hcap), answersStatus_respond_ok rfl⟩

/-- A step that takes a command answers with the status of its first failing check, decoding being the first check. -/
theorem step_command_answersStatus {s t : State} {w : U32} {ops : Bundle} {rest : List HostInput}
    (hp : s.pending = .command w ops :: rest) (ht : step s = .next t) :
    AnswersStatus s t (firstFailure (s.accept ops rest) (decode w)) := by
  cases hd : decode w with
  | legal i =>
    obtain ⟨u, hu, answers⟩ := exec_answersStatus i (s.accept ops rest)
    cases ((step_of_decode_legal hp hd).trans hu).symm.trans ht
    exact answers
  | illegal why =>
    cases (step_of_decode_illegal hp hd).symm.trans ht
    exact answersStatus_respond_failing { s with pending := rest } .illegalCommand

/- ==== The causes of each failing status ==== -/

/-- The cause R201 gives each failing status, for a decoded word with the operands of `s`; OK needs none. -/
def FailureCause (s : State) (d : Decoded) : Status → Prop
  | .ok => True
  | .illegalCommand => ∃ why, d = .illegal why
  | .capacityExceeded => (∃ p1 p2, d = .legal (.create p1 p2)) ∧ s.nCreated = s.params.maxInstances
  | .invalidInstance => ∃ h, d = .legal (.feed h) ∧ s.nCreated ≤ h.toNat
  | .invalidArgument => ∃ h, d = .legal (.buildSg h) ∧ BadArgument s h
  | .allocationFailure => ∃ h, d = .legal (.buildSg h) ∧ h.toNat < s.nCreated ∧
      segmentsExceed s.params.maxSegments s.operands.segs.length = false ∧
        totalLength s.operands.segs ≤ 65535 ∧ s.params.txMaxPayload < totalLength s.operands.segs

/-- The first check that fails is a cause of its status. -/
theorem failureCause_firstFailure (s : State) (d : Decoded) : FailureCause s d (firstFailure s d) := by
  cases d with
  | illegal why => exact ⟨why, rfl⟩
  | legal i =>
    cases i with
    | create p1 p2 =>
      simp only [firstFailure]
      split_ifs with hfull
      · exact ⟨⟨p1, p2, rfl⟩, hfull⟩
      · trivial
    | crc start => trivial
    | feed h =>
      simp only [firstFailure]
      split_ifs with hn
      · exact ⟨h, rfl, hn⟩
      · trivial
    | buildSg h =>
      simp only [firstFailure]
      split_ifs with hbad hcap
      · exact ⟨h, rfl, hbad⟩
      · obtain ⟨hv, hcount, htotal⟩ := not_badArgument_iff.mp hbad
        exact ⟨h, rfl, hv, hcount, htotal, hcap⟩
      · trivial

/-- The cause of a failing status makes its check the first that fails. -/
theorem firstFailure_of_failureCause {s : State} {d : Decoded} {st : Status} (hst : st ≠ .ok)
    (hcause : FailureCause s d st) : firstFailure s d = st := by
  cases st with
  | ok => exact absurd rfl hst
  | illegalCommand =>
    obtain ⟨why, rfl⟩ := hcause
    rfl
  | capacityExceeded =>
    obtain ⟨⟨p1, p2, rfl⟩, hfull⟩ := hcause
    exact if_pos hfull
  | invalidInstance =>
    obtain ⟨h, rfl, hn⟩ := hcause
    exact if_pos hn
  | invalidArgument =>
    obtain ⟨h, rfl, hbad⟩ := hcause
    exact if_pos hbad
  | allocationFailure =>
    obtain ⟨h, rfl, hv, hcount, htotal, hcap⟩ := hcause
    exact (if_neg (not_badArgument_iff.mpr ⟨hv, hcount, htotal⟩)).trans (if_pos hcap)

theorem firstFailure_eq_iff {s : State} {d : Decoded} {st : Status} (hst : st ≠ .ok) :
    firstFailure s d = st ↔ FailureCause s d st :=
  ⟨fun heq => heq ▸ failureCause_firstFailure s d, firstFailure_of_failureCause hst⟩

/-- Statuses have different codes (R88). -/
theorem Status.code_inj {st st' : Status} : st.code = st'.code ↔ st = st' :=
  (Function.LeftInverse.injective statusOfCode_code).eq_iff

/-- Settles O16: the status is that of the first failing check, which has one cause for each status. -/
theorem failureStatusesHaveTheirCauses : Obligations.FailureStatusesHaveTheirCauses := by
  unfold Obligations.FailureStatusesHaveTheirCauses
  intro s t w ops rest r hp ht hr
  obtain ⟨q, hq, hst, hfail⟩ := step_command_answersStatus hp ht
  cases List.append_cancel_left (hq.symm.trans hr)
  have hcause {st : Status} (hne : st ≠ .ok) :
      r.status.code = st.code ↔ FailureCause (s.accept ops rest) (decode w) st := by
    rw [Status.code_inj, hst, firstFailure_eq_iff hne]
  refine ⟨hcause (st := .illegalCommand) (by decide), hcause (st := .capacityExceeded) (by decide),
    hcause (st := .invalidInstance) (by decide), hcause (st := .invalidArgument) (by decide),
    hcause (st := .allocationFailure) (by decide), fun hne => ?failing⟩
  case failing =>
    obtain ⟨hresult, hunchanged⟩ := hfail (hst ▸ hne)
    exact ⟨hresult, Response.Of.events_of_result_none hresult, hunchanged⟩

end Sys2Proof.Machine
end

section
/-!
PROOFS. The error events (R202): every event of a step with its cause and the context it leaves.
-/

namespace Sys2Proof.Machine

section
variable {TOKEN : Type} {P : Params} {c c' : Context} {h : Handle} {tok : TOKEN} {b : Byte} {e : Event.Of TOKEN}

/-- The exits of `rx_step` that emit, each with what leads to it, the context it leaves and its event; of PREAMBLE_DETECTED
only that it comes from neither of the two states that emit anything else. -/
inductive Emits (P : Params) (c : Context) (h : Handle) (tok : TOKEN) (b : Byte) : Context → Event.Of TOKEN → Prop where
  /-- A preamble is detected (R164). -/
  | preamble {c' : Context} (hh : c.st ≠ .hcrcLo) (hd : c.st ≠ .data) :
    Emits P c h tok b c' (plainEvent h tok .preambleDetected)
  /-- The header CRC differs (R171). -/
  | headerMismatch (hs : c.st = .hcrcLo) (hcrc : ¬ HeaderMatches P c b) :
    Emits P c h tok b { stageHcrcLo c b with st := .seekP1 } (plainEvent h tok .headerCrcError)
  /-- The length is above the capacity (R176). -/
  | tooLong (hs : c.st = .hcrcLo) (hcrc : HeaderMatches P c b) (hlong : P.maxPayload < c.len.toNat) :
    Emits P c h tok b { releaseBuffer (stageHcrcLo c b) with st := .seekP1 } (plainEvent h tok .packetLengthError)
  /-- A zero-length frame is delivered (R178). -/
  | emptyMatch (hs : c.st = .hcrcLo) (hcrc : HeaderMatches P c b) (hzero : c.len = 0x0000#16)
      (hdata : c.dcrcExp = 0x0000#16) :
    Emits P c h tok b { releaseBuffer (stageHcrcLo c b) with st := .seekP1 }
      (validDataEvent h tok (stageHcrcLo c b).hdr [])
  /-- The data CRC of a zero-length frame differs (R178). -/
  | emptyMismatch (hs : c.st = .hcrcLo) (hcrc : HeaderMatches P c b) (hzero : c.len = 0x0000#16)
      (hdata : c.dcrcExp ≠ 0x0000#16) :
    Emits P c h tok b { releaseBuffer (stageHcrcLo c b) with st := .seekP1, rxHeld := true }
      (plainEvent h tok .dataCrcError)
  /-- A payload is delivered (R180). -/
  | payloadMatch (hs : c.st = .data) (hlen : c.rx.length + 1 = c.len.toNat)
      (hdata : crcStep P c.rxCrc b = c.dcrcExp) :
    Emits P c h tok b { c with rx := [], rxCrc := 0x0000#16, st := .seekP1 }
      (validDataEvent h tok c.hdr (c.rx ++ [b]))
  /-- The data CRC of a payload differs (R181). -/
  | payloadMismatch (hs : c.st = .data) (hlen : c.rx.length + 1 = c.len.toNat)
      (hdata : crcStep P c.rxCrc b ≠ c.dcrcExp) :
    Emits P c h tok b { c with rx := c.rx ++ [b], rxCrc := crcStep P c.rxCrc b, rxHeld := true, st := .seekP1 }
      (plainEvent h tok .dataCrcError)

/-- HCRC_LO emits unless it leads to DATA. -/
theorem emits_of_rxStep_hcrcLo (hs : c.st = .hcrcLo) (he : rxStep P c h tok b = (c', some e)) : Emits P c h tok b c' e := by
  rw [rxStep_of_hcrcLo hs] at he
  rcases rxHcrcLo_cases (P := P) (h := h) (tok := tok) (stageHcrcLo c b) rfl with
    ⟨hcrc, e1⟩ | ⟨hcrc, hlong, e1⟩ | ⟨hcrc, hzero, e1⟩ | ⟨-, -, -, e1⟩
  · cases e1.symm.trans he
    exact .headerMismatch hs hcrc
  · cases e1.symm.trans he
    exact .tooLong hs hcrc hlong
  · rcases completeEmpty_cases (c := releaseBuffer (stageHcrcLo c b)) (h := h) (tok := tok) with
      ⟨hdata, e2⟩ | ⟨hdata, e2⟩ <;> cases (e1.trans e2).symm.trans he
    · exact .emptyMatch hs hcrc hzero hdata
    · exact .emptyMismatch hs hcrc hzero hdata
  · cases e1.symm.trans he

/-- DATA emits when the payload is complete. -/
theorem emits_of_rxStep_data (hs : c.st = .data) (he : rxStep P c h tok b = (c', some e)) : Emits P c h tok b c' e := by
  rw [rxStep_of_data hs] at he
  rcases rxData_cases (P := P) (c := c) (h := h) (tok := tok) (b := b) _ rfl with
    ⟨-, e1⟩ | ⟨hlen, hdata, e1⟩ | ⟨hlen, hdata, e1⟩ <;> cases e1.symm.trans he
  · exact .payloadMatch hs (by simpa using hlen) hdata
  · exact .payloadMismatch hs (by simpa using hlen) hdata

/-- HCRC_LO and DATA emit as above, and the other states nothing but PREAMBLE_DETECTED. -/
theorem emits_of_rxStep (he : rxStep P c h tok b = (c', some e)) : Emits P c h tok b c' e := by
  by_cases hh : c.st = .hcrcLo
  · exact emits_of_rxStep_hcrcLo hh he
  by_cases hd : c.st = .data
  · exact emits_of_rxStep_data hd he
  rcases (rxStep_of_ne_hcrcLo_of_ne_data (P := P) (h := h) (tok := tok) (b := b) hh hd).2 with e1 | e1 <;>
    cases (congrArg Prod.snd he).symm.trans e1
  exact .preamble hh hd

/-- After one byte more the data CRC is still that of the buffer (R31, R179). -/
theorem ContextInv.crcStep_rxCrc (inv : ContextInv P c) (b : Byte) :
    crcStep P c.rxCrc b = crc16 P (c.rx ++ [b]) 0x0000#16 := by
  obtain ⟨-, -, -, -, -, -, hcrc⟩ := inv
  rw [hcrc, crc16_append]
  rfl

end

/-- Settles O44: every exit of the receiver that emits has the cause of its event, and excludes that of any other error. -/
theorem errorEventsHaveTheirCauses : Obligations.ErrorEventsHaveTheirCauses := by
  unfold Obligations.ErrorEventsHaveTheirCauses
  intro P c c' h tok b e inv he
  -- The statement in the terms of the exits.
  have hheader : crc16 P c.hdr.forming 0x0000#16 = c.hcrcExp ||| b.zeroExtend 16 ↔ HeaderMatches P c b := Iff.rfl
  have hexpected : join16 c.hdr.b4 c.hdr.b5 = c.dcrcExp := rfl
  have hempty : crc16 P [] 0x0000#16 = 0x0000#16 := rfl
  simp only [ne_eq, hheader, hexpected, hempty, ← ContextInv.crcStep_rxCrc inv b]
  cases emits_of_rxStep he with
  | preamble hh hd => simp [plainEvent, EventKind.code, hh, hd]
  | headerMismatch hs hcrc => simp [plainEvent, EventKind.code, stageHcrcLo, hs, hcrc]
  | tooLong hs hcrc hlong =>
    have hnonzero : c.len ≠ 0x0000#16 := fun hzero => by simp [hzero] at hlong
    simp [plainEvent, EventKind.code, releaseBuffer, hs, hcrc, hlong, hnonzero]
  | emptyMatch hs hcrc hzero hdata => simp [validDataEvent, EventKind.code, hs, hcrc, hzero, hdata]
  | emptyMismatch hs hcrc hzero hdata => simp [plainEvent, EventKind.code, hs, hcrc, hzero, Ne.symm hdata]
  | payloadMatch hs _ hdata => simp [validDataEvent, EventKind.code, hs, hdata]
  | payloadMismatch hs hlen hdata => simp [plainEvent, EventKind.code, hs, hlen, hdata]

end Sys2Proof.Machine
end

section
/-!
PROOFS. Encoding and decoding, and the shape of a step: what it does with the head of the port (R61, R86), and that it always
goes on (R200).
-/

namespace Sys2Proof.Machine

/-- Settles O1: each opcode selects its own branch of the decoder, and each field reads back. -/
theorem decodeOfEncodeIsIdentity : Obligations.DecodeOfEncodeIsIdentity := by
  unfold Obligations.DecodeOfEncodeIsIdentity
  exact decode_encode

/-- Settles O2: a legal exit of the decoder has fixed every field but the operands. -/
theorem legalWordIsEncodingOfItsMeaning : Obligations.LegalWordIsEncodingOfItsMeaning := by
  unfold Obligations.LegalWordIsEncodingOfItsMeaning
  exact fun w i => (decode_eq_legal_iff w i).mp

/-- Settles O5: each legal word is the word of its instruction; the two illegal ones are evaluated. -/
theorem specWordsDecode : Obligations.SpecWordsDecode := by
  unfold Obligations.SpecWordsDecode
  simp only [decode_eq_legal_iff]
  decide

theorem step_of_pending_nil {s : State} (hp : s.pending = []) : step s = .next s := by simp [step, hp]

theorem step_of_reset {s : State} {rest : List HostInput} (hp : s.pending = .reset :: rest) :
    step s = .next (s.hardwareReset rest) := by simp [step, hp]

/-- Settles O8: with a legal word at the head of the port, a step is its instruction on the accepted bundle. -/
theorem stepRunsDecodedInstruction : Obligations.StepRunsDecodedInstruction := by
  unfold Obligations.StepRunsDecodedInstruction
  exact fun s w ops rest i hp hd => step_of_decode_legal hp hd

/-- Settles O9: an empty port is the first branch of the step. -/
theorem idleStepChangesNothing : Obligations.IdleStepChangesNothing := by
  unfold Obligations.IdleStepChangesNothing
  exact fun s hp => step_of_pending_nil hp

/-- Settles O10: every command answers, and the three other steps give their next state outright. -/
theorem noStepFaultsOrRefuses : Obligations.NoStepFaultsOrRefuses := by
  unfold Obligations.NoStepFaultsOrRefuses StepSafe
  intro s
  rcases step_cases s with ⟨-, e⟩ | ⟨rest, -, e⟩ | ⟨w, ops, rest, i, -, -, e⟩ | ⟨w, ops, rest, why, -, -, e⟩
  · exact ⟨_, e⟩
  · exact ⟨_, e⟩
  · obtain ⟨t, r, ht, -⟩ := exec_answers i (s.accept ops rest)
    exact ⟨t, e.trans ht⟩
  · exact ⟨_, e⟩

/-- Settles O7: each expansion is read off the definition. -/
theorem pseudoCommandsExpand : Obligations.PseudoCommandsExpand := by
  unfold Obligations.PseudoCommandsExpand
  exact fun TOKEN => ⟨fun h tok b => ⟨rfl, fun r rs => rfl⟩, fun h tok chunks done => rfl,
    fun h payload => ⟨rfl, fun r rs => rfl⟩, fun start d1 d2 => ⟨rfl, fun c => rfl⟩⟩

end Sys2Proof.Machine
end

section
/-!
PROOFS. What each command leaves as it was (20_memory.md section 3), once for all: the frame of a command, and of a step.
-/

namespace Sys2Proof.Machine

/-- From `s` to `t` nothing changed but `n_created`, the fields of slots, and one response more. -/
structure ExecFrame (s t : State) : Prop where
  params : t.params = s.params
  pending : t.pending = s.pending
  operands : t.operands = s.operands
  length_slots : t.slots.length = s.slots.length
  responses : ∃ r, t.responses = s.responses ++ [r]

theorem execFrame_respond (s : State) (r : Response) : ExecFrame s (s.respond r) := ⟨rfl, rfl, rfl, rfl, r, rfl⟩

/-- Every command has this frame. -/
theorem exec_frame {i : Instr} {s t : State} (ht : exec i s = .next t) : ExecFrame s t := by
  cases i with
  | create p1 p2 =>
    rcases execCreate_cases p1 p2 s with ⟨-, e⟩ | ⟨-, e⟩ <;> cases e.symm.trans ht
    · exact execFrame_respond s _
    · exact ⟨rfl, rfl, rfl, List.length_set, _, rfl⟩
  | crc start =>
    cases (exec_crc start s).symm.trans ht
    exact execFrame_respond s _
  | feed h =>
    rcases execFeed_cases h s with ⟨-, e⟩ | ⟨-, e⟩ <;> cases e.symm.trans ht
    · exact execFrame_respond s _
    · exact ⟨rfl, rfl, rfl, List.length_set, _, rfl⟩
  | buildSg h =>
    obtain ⟨r, e⟩ := execBuildSg_respond h s
    cases e.symm.trans ht
    exact execFrame_respond s r

/-- Settles O12: of the state a step changes the port, the contexts and their count. -/
theorem parametersNeverChange : Obligations.ParametersNeverChange := by
  unfold Obligations.ParametersNeverChange
  intro s t ht
  rcases step_cases s with ⟨-, e⟩ | ⟨rest, -, e⟩ | ⟨w, ops, rest, i, -, -, e⟩ | ⟨w, ops, rest, why, -, -, e⟩
  · cases e.symm.trans ht
    rfl
  · cases e.symm.trans ht
    rfl
  · have frame : ExecFrame (s.accept ops rest) t := exec_frame (e.symm.trans ht)
    exact frame.params
  · cases e.symm.trans ht
    rfl

/-- CREATE writes no slot but the next, and nothing when it adds none. -/
theorem exec_create_frame {s t : State} {p1 p2 : Byte} (ht : exec (.create p1 p2) s = .next t) :
    (t.nCreated = s.nCreated ∧ t.slots = s.slots ∨ t.nCreated = s.nCreated + 1) ∧
      ∀ k, k ≠ s.nCreated → t.ctx k = s.ctx k := by
  by_cases hfull : s.nCreated = s.params.maxInstances
  · cases (exec_create_of_full hfull p1 p2).symm.trans ht
    exact ⟨.inl ⟨rfl, rfl⟩, fun _ _ => rfl⟩
  · cases (exec_create_of_free hfull p1 p2).symm.trans ht
    exact ⟨.inr rfl, fun k hk => s.setCtx_ctx_of_ne s.nCreated k _ hk⟩

/-- FEED writes no slot but its own, and of that not the preambles. -/
theorem exec_feed_frame {s t : State} {h : Handle} (ht : exec (.feed h) s = .next t) :
    t.nCreated = s.nCreated ∧ (∀ k, k ≠ h.toNat → t.ctx k = s.ctx k) ∧
      (t.ctx h.toNat).p1 = (s.ctx h.toNat).p1 ∧ (t.ctx h.toNat).p2 = (s.ctx h.toNat).p2 := by
  rcases execFeed_cases h s with ⟨-, e⟩ | ⟨hv, e⟩
  · cases e.symm.trans ht
    exact ⟨rfl, fun _ _ => rfl, rfl, rfl⟩
  · obtain ⟨-, h1, h2⟩ := execFeed_keepsPreambles ht h.toNat hv
    cases e.symm.trans ht
    exact ⟨rfl, fun k hk => s.setCtx_ctx_of_ne h.toNat k _ hk, h1, h2⟩

/-- Settles O54: the common frame, and each command's own. -/
theorem commandsChangeOnlyWhatTheyName : Obligations.CommandsChangeOnlyWhatTheyName := by
  unfold Obligations.CommandsChangeOnlyWhatTheyName
  refine ⟨fun s t i ht => ?all, fun s t p1 p2 => exec_create_frame, fun s t h => exec_feed_frame,
    fun s t start ht => ?crc, fun s t h ht => ?buildSg⟩
  case all =>
    have frame := exec_frame ht
    exact ⟨frame.params, frame.pending, frame.operands, frame.length_slots, frame.responses⟩
  case crc =>
    cases (exec_crc start s).symm.trans ht
    exact ⟨rfl, rfl⟩
  case buildSg =>
    obtain ⟨r, e⟩ := execBuildSg_respond h s
    cases e.symm.trans ht
    exact ⟨rfl, rfl⟩

end Sys2Proof.Machine
end

section
/-!
PROOFS. The invariant (R35): the machine has it after reset, every byte keeps it in a context, and every step in the state.
-/

namespace Sys2Proof.Machine

/- ==== Two bytes as a value, assembled one byte after the other ==== -/

/-- The first byte alone is the value with a zero low byte (R165, R169). -/
theorem shiftLeft_eq_join16 (hi : Byte) : hi.zeroExtend 16 <<< 8 = join16 hi 0x00#8 := by simp [join16]

/-- OR-ing the second byte in completes the value (R166, R170). -/
theorem join16_zero_or (hi lo : Byte) : join16 hi 0x00#8 ||| lo.zeroExtend 16 = join16 hi lo := by simp [join16]

theorem extractLsb'_join16_high (hi lo : Byte) : (join16 hi lo).extractLsb' 8 8 = hi := by
  rw [join16_eq_append]
  exact BitVec.extractLsb'_append_eq_left

theorem extractLsb'_join16_low (hi lo : Byte) : (join16 hi lo).extractLsb' 0 8 = lo := by
  rw [join16_eq_append]
  exact BitVec.extractLsb'_append_eq_right

/-- A value is its two bytes. -/
theorem join16_extractLsb' (v : U16) : join16 (v.extractLsb' 8 8) (v.extractLsb' 0 8) = v := by
  rw [join16_eq_append]
  exact BitVec.extractLsb'_append_extractLsb'

section
variable {TOKEN : Type} {P : Params} {c : Context} {h : Handle} {tok : TOKEN} {b : Byte}

/- ==== One byte keeps the invariant ==== -/

/-- In the search only the collector's clauses of R35 are asked for. -/
theorem contextInv_of_search (hs : c.st = .seekP1 ∨ c.st = .seekP2) (hrx : c.rx.length ≤ P.maxPayload)
    (hcrc : c.rxCrc = crc16 P c.rx 0x0000#16) : ContextInv P c := by
  rcases hs with hs | hs <;> simp [ContextInv, hs, hrx, hcrc]

/-- In HCRC_LO the register holds the high byte of the expected header CRC (R35), and the byte completes it. -/
theorem ContextInv.hcrcExp_or (inv : ContextInv P c) (hs : c.st = .hcrcLo) :
    c.hcrcExp ||| b.zeroExtend 16 = join16 c.hdr.b6 b := by
  obtain ⟨-, -, -, hexp, -⟩ := inv
  obtain ⟨hlow, hhigh⟩ := hexp hs
  rw [← join16_extractLsb' c.hcrcExp, hlow, hhigh, join16_zero_or]

theorem ContextInv.length_rx_le (inv : ContextInv P c) : c.rx.length ≤ P.maxPayload := by
  obtain ⟨-, -, -, -, -, hrx, -⟩ := inv
  exact hrx

theorem ContextInv.rxCrc_eq (inv : ContextInv P c) : c.rxCrc = crc16 P c.rx 0x0000#16 := by
  obtain ⟨-, -, -, -, -, -, hcrc⟩ := inv
  exact hcrc

/-- Past the search the preambles are staged (R35). -/
theorem ContextInv.preambles_staged (inv : ContextInv P c) (h1 : c.st ≠ .seekP1) (h2 : c.st ≠ .seekP2) :
    c.hdr.b0 = c.p1 ∧ c.hdr.b1 = c.p2 := by
  obtain ⟨hpre, -⟩ := inv
  exact hpre ⟨h1, h2⟩

/-- From DCRC_HI on the length register is the staged length (R35). -/
theorem ContextInv.len_assembled (inv : ContextInv P c) (hs : c.st ∈ [.dcrcHi, .dcrcLo, .hcrcHi, .hcrcLo, .data]) :
    c.len = join16 c.hdr.b2 c.hdr.b3 := by
  obtain ⟨-, -, hlen, -⟩ := inv
  exact hlen hs

theorem rxHcrcLo_keeps_contextInv (inv : ContextInv P c) (hs : c.st = .hcrcLo) :
    ContextInv P (rxHcrcLo P c h tok b).1 := by
  have hexp : c.hcrcExp ||| b.zeroExtend 16 = join16 c.hdr.b6 b := inv.hcrcExp_or hs
  have hpre := inv.preambles_staged (by simp [hs]) (by simp [hs])
  have hlen : c.len = join16 c.hdr.b2 c.hdr.b3 := inv.len_assembled (by simp [hs])
  rcases rxHcrcLo_cases (P := P) (h := h) (tok := tok) (stageHcrcLo c b) rfl with
    ⟨-, e⟩ | ⟨-, -, e⟩ | ⟨-, -, e⟩ | ⟨hcrc, hfits, hpos, e⟩ <;> rw [e]
  · exact contextInv_of_search (.inl rfl) inv.length_rx_le inv.rxCrc_eq
  · exact contextInv_of_search (.inl rfl) (Nat.zero_le _) rfl
  · rw [completeEmpty_fst]
    exact contextInv_of_search (.inl rfl) (Nat.zero_le _) rfl
  · have hone : 1 ≤ c.len.toNat := Nat.pos_of_ne_zero fun h0 => hpos (BitVec.eq_of_toNat_eq h0)
    exact ⟨fun _ => hpre, nofun, fun _ => hlen, nofun, fun _ => ⟨hone, hfits, hone, hexp, hcrc.symm⟩,
      Nat.zero_le _, rfl⟩

theorem rxData_keeps_contextInv (inv : ContextInv P c) (hs : c.st = .data) : ContextInv P (rxData P c h tok b).1 := by
  have hcrc : crcStep P c.rxCrc b = crc16 P (c.rx ++ [b]) 0x0000#16 := inv.crcStep_rxCrc b
  obtain ⟨hpre, -, hlen, -, hdata, -, -⟩ := inv
  obtain ⟨hone, hfits, hmore, hexp, hhdr⟩ := hdata hs
  have hrx : (c.rx ++ [b]).length ≤ c.len.toNat := by rw [List.length_append]; exact hmore
  rcases rxData_cases (P := P) (c := c) (h := h) (tok := tok) (b := b) _ rfl with
    ⟨hne, e⟩ | ⟨-, -, e⟩ | ⟨-, -, e⟩ <;> rw [e]
  · have hlo : c.st ≠ .lenLo ∧ c.st ≠ .hcrcLo := by simp [hs]
    exact ⟨hpre, fun hl => absurd hl hlo.1, hlen, fun hl => absurd hl hlo.2,
      fun _ => ⟨hone, hfits, lt_of_le_of_ne hrx hne, hexp, hhdr⟩, hrx.trans hfits, hcrc⟩
  · exact contextInv_of_search (.inl rfl) (Nat.zero_le _) rfl
  · exact contextInv_of_search (.inl rfl) (hrx.trans hfits) hcrc

/-- Every byte keeps the invariant of its context. -/
theorem rxStep_keeps_contextInv (inv : ContextInv P c) : ContextInv P (rxStep P c h tok b).1 := by
  cases hs : c.st with
  | seekP1 =>
    rw [rxStep_of_seekP1 hs, rxSeekP1]
    split_ifs
    · exact contextInv_of_search (.inr rfl) inv.length_rx_le inv.rxCrc_eq
    · exact inv
  | seekP2 =>
    rw [rxStep_of_seekP2 hs, rxSeekP2]
    split_ifs
    · exact ⟨fun _ => ⟨rfl, rfl⟩, nofun, nofun, nofun, nofun, inv.length_rx_le, inv.rxCrc_eq⟩
    · exact inv
    · exact contextInv_of_search (.inl rfl) inv.length_rx_le inv.rxCrc_eq
  | lenHi =>
    rw [rxStep_of_lenHi hs]
    have hpre := inv.preambles_staged (by simp [hs]) (by simp [hs])
    exact ⟨fun _ => hpre, fun _ => shiftLeft_eq_join16 b, nofun, nofun, nofun, inv.length_rx_le, inv.rxCrc_eq⟩
  | lenLo =>
    rw [rxStep_of_lenLo hs]
    have hpre := inv.preambles_staged (by simp [hs]) (by simp [hs])
    have hlen : c.len ||| b.zeroExtend 16 = join16 c.hdr.b2 b := by
      obtain ⟨-, hhigh, -⟩ := inv
      rw [hhigh hs, join16_zero_or]
    exact ⟨fun _ => hpre, nofun, fun _ => hlen, nofun, nofun, inv.length_rx_le, inv.rxCrc_eq⟩
  | dcrcHi =>
    rw [rxStep_of_dcrcHi hs]
    have hpre := inv.preambles_staged (by simp [hs]) (by simp [hs])
    have hlen := inv.len_assembled (by simp [hs])
    exact ⟨fun _ => hpre, nofun, fun _ => hlen, nofun, nofun, inv.length_rx_le, inv.rxCrc_eq⟩
  | dcrcLo =>
    rw [rxStep_of_dcrcLo hs]
    have hpre := inv.preambles_staged (by simp [hs]) (by simp [hs])
    have hlen := inv.len_assembled (by simp [hs])
    exact ⟨fun _ => hpre, nofun, fun _ => hlen, nofun, nofun, inv.length_rx_le, inv.rxCrc_eq⟩
  | hcrcHi =>
    rw [rxStep_of_hcrcHi hs]
    have hpre := inv.preambles_staged (by simp [hs]) (by simp [hs])
    have hlen := inv.len_assembled (by simp [hs])
    have hexp : (b.zeroExtend 16 <<< 8).extractLsb' 0 8 = 0x00#8 ∧ (b.zeroExtend 16 <<< 8).extractLsb' 8 8 = b := by
      rw [shiftLeft_eq_join16, extractLsb'_join16_low, extractLsb'_join16_high]
      exact ⟨rfl, rfl⟩
    exact ⟨fun _ => hpre, nofun, fun _ => hlen, fun _ => hexp, nofun, inv.length_rx_le, inv.rxCrc_eq⟩
  | hcrcLo =>
    rw [rxStep_of_hcrcLo hs]
    exact rxHcrcLo_keeps_contextInv inv hs
  | data =>
    rw [rxStep_of_data hs]
    exact rxData_keeps_contextInv inv hs

/-- Any chunk keeps the invariant of its context. -/
theorem feedBytes_keeps_contextInv (inv : ContextInv P c) (bs : List Byte) :
    ContextInv P (feedBytes P c h tok bs).1 := by
  induction bs generalizing c with
  | nil => exact inv
  | cons b bs ih => exact ih (rxStep_keeps_contextInv inv)

end

/- ==== One step keeps the invariant ==== -/

theorem contextInv_created (P : Params) (p1 p2 : Byte) : ContextInv P (createdContext p1 p2) :=
  contextInv_of_search (.inl rfl) (Nat.zero_le _) rfl

/-- Writing a context that meets the invariant into a slot keeps that of every context. -/
theorem contextInv_setCtx {s : State} {h k : Nat} {c : Context} (hc : ContextInv s.params c)
    (hk : k = h ∧ k < s.slots.length ∨ ContextInv s.params (s.ctx k)) : ContextInv s.params ((s.setCtx h c).ctx k) := by
  rcases hk with ⟨rfl, hslot⟩ | hold
  · rw [s.setCtx_ctx_self k c hslot]
    exact hc
  · rcases s.setCtx_ctx_cases h k c with e | ⟨-, e⟩ <;> rw [e]
    · exact hold
    · exact hc

theorem exec_keeps_inv {i : Instr} {s t : State} (inv : s.Inv) (ht : exec i s = .next t) : t.Inv := by
  obtain ⟨hwf, hslots, hle, hctx⟩ := inv
  cases i with
  | create p1 p2 =>
    by_cases hfull : s.nCreated = s.params.maxInstances
    · cases (exec_create_of_full hfull p1 p2).symm.trans ht
      exact ⟨hwf, hslots, hle, hctx⟩
    · cases (exec_create_of_free hfull p1 p2).symm.trans ht
      have hroom : s.nCreated < s.params.maxInstances := lt_of_le_of_ne hle hfull
      refine ⟨hwf, List.length_set.trans hslots, hroom, fun k hk => ?_⟩
      refine contextInv_setCtx (contextInv_created _ p1 p2) ?_
      rcases Nat.lt_succ_iff_lt_or_eq.mp hk with hlt | heq
      · exact .inr (hctx k hlt)
      · exact .inl ⟨heq, by omega⟩
  | crc start =>
    cases (exec_crc start s).symm.trans ht
    exact ⟨hwf, hslots, hle, hctx⟩
  | feed h =>
    rcases execFeed_cases h s with ⟨-, e⟩ | ⟨hv, e⟩ <;> cases e.symm.trans ht
    · exact ⟨hwf, hslots, hle, hctx⟩
    · exact ⟨hwf, List.length_set.trans hslots, hle, fun k hk =>
        contextInv_setCtx (feedBytes_keeps_contextInv (hctx h.toNat hv) _) (.inr (hctx k hk))⟩
  | buildSg h =>
    obtain ⟨r, e⟩ := execBuildSg_respond h s
    cases e.symm.trans ht
    exact ⟨hwf, hslots, hle, hctx⟩

/-- Settles O59: a command keeps the invariant, a reset leaves no created context to ask it of, and the other steps leave the
contexts as they are. -/
theorem everyStepKeepsInvariant : Obligations.EveryStepKeepsInvariant := by
  unfold Obligations.EveryStepKeepsInvariant
  intro s t inv ht
  rcases step_cases s with ⟨-, e⟩ | ⟨rest, -, e⟩ | ⟨w, ops, rest, i, -, -, e⟩ | ⟨w, ops, rest, why, -, -, e⟩
  · cases e.symm.trans ht
    exact inv
  · cases e.symm.trans ht
    obtain ⟨hwf, -⟩ := inv
    exact ⟨hwf, List.length_replicate, Nat.zero_le _, fun h hlt => absurd hlt (Nat.not_lt_zero h)⟩
  · exact exec_keeps_inv (s := s.accept ops rest) inv (e.symm.trans ht)
  · cases e.symm.trans ht
    exact inv

theorem inv_resetWith {P : Params} (hwf : P.wf = true) : (State.resetWith P : State).Inv :=
  ⟨hwf, List.length_replicate, Nat.zero_le _, fun h hlt => absurd hlt (Nat.not_lt_zero h)⟩

/-- Settles O58: right after reset there is a slot for every handle, and no context is created. -/
theorem resetMeetsInvariant : Obligations.ResetMeetsInvariant := by
  unfold Obligations.ResetMeetsInvariant
  exact ⟨fun P => inv_resetWith, inv_resetWith Config.params_wf⟩

end Sys2Proof.Machine
end

section
/-!
PROOFS. Valid frames (R74): a frame as its header and its payload, and the soundness of delivery, that nothing else is ever
delivered.
-/

namespace Sys2Proof.Machine

section
variable {TOKEN : Type} {P : Params} {c c' d : Context} {h : Handle} {tok : TOKEN} {b : Byte} {e : Event.Of TOKEN}

/-- R74, read off the header's bytes. -/
theorem validFrame_append_iff {m : Header} {p : List Byte} :
    ValidFrame P c (m.toList ++ p) ↔
      m.b0 = c.p1 ∧ m.b1 = c.p2 ∧ p.length = (join16 m.b2 m.b3).toNat ∧
        join16 m.b6 m.b7 = crc16 P m.forming 0x0000#16 ∧ join16 m.b4 m.b5 = crc16 P p 0x0000#16 := by
  have hlen : 8 ≤ (m.toList ++ p).length ∧ (m.toList ++ p).length = 8 + p.length := by simp [Header.toList]; omega
  have htake : (m.toList ++ p).take 6 = m.forming := rfl
  have hdrop : (m.toList ++ p).drop 8 = p := rfl
  rw [ValidFrame, htake, hdrop, hlen.2, Nat.add_left_cancel_iff, and_iff_right (hlen.2 ▸ hlen.1)]
  rfl

/-- Of its context a valid frame has the preambles alone. -/
theorem validFrame_congr {F : List Byte} (h1 : c.p1 = d.p1) (h2 : c.p2 = d.p2) : ValidFrame P c F ↔ ValidFrame P d F := by
  simp only [ValidFrame, h1, h2]

/-- A VALID_DATA event carries a valid frame for `c` that fits the receive buffer. -/
def DeliversValidFrame (P : Params) (c : Context) (e : Event.Of TOKEN) : Prop :=
  ∃ m p, e.metadata = some m ∧ e.payload = some p ∧ ValidFrame P c (m.toList ++ p) ∧ p.length ≤ P.maxPayload

/-- A byte delivers a valid frame: the two exits with VALID_DATA have checked both CRCs, and the invariant gives the rest. -/
theorem deliversValidFrame_of_rxStep (inv : ContextInv P c) (he : rxStep P c h tok b = (c', some e))
    (hk : e.kind = .validData) : DeliversValidFrame P c e := by
  cases emits_of_rxStep he with
  | preamble | headerMismatch | tooLong | emptyMismatch | payloadMismatch => cases hk
  | emptyMatch hs hcrc hzero hdata =>
    obtain ⟨h0, h1⟩ := inv.preambles_staged (by simp [hs]) (by simp [hs])
    have hlen : c.len = join16 c.hdr.b2 c.hdr.b3 := inv.len_assembled (by simp [hs])
    have hhdr : join16 c.hdr.b6 b = crc16 P c.hdr.forming 0x0000#16 := (inv.hcrcExp_or hs).symm.trans hcrc.symm
    refine ⟨_, _, rfl, rfl, validFrame_append_iff.mpr ⟨h0, h1, ?_, hhdr, hdata⟩, Nat.zero_le _⟩
    exact congrArg BitVec.toNat (hzero.symm.trans hlen)
  | payloadMatch hs hlast hdata =>
    obtain ⟨h0, h1⟩ := inv.preambles_staged (by simp [hs]) (by simp [hs])
    have hlen : c.len = join16 c.hdr.b2 c.hdr.b3 := inv.len_assembled (by simp [hs])
    have hp : (c.rx ++ [b]).length = c.len.toNat := List.length_append.trans hlast
    have hcrc := inv.crcStep_rxCrc b
    obtain ⟨-, -, -, -, haccepted, -, -⟩ := inv
    obtain ⟨-, hfits, -, hexp, hhdr⟩ := haccepted hs
    exact ⟨_, _, rfl, rfl, validFrame_append_iff.mpr
      ⟨h0, h1, hlen ▸ hp, hexp.symm.trans hhdr, hdata.symm.trans hcrc⟩, hp.trans_le hfits⟩

/-- A chunk delivers valid frames: every byte keeps the invariant and the preambles. -/
theorem deliversValidFrame_of_mem_feedBytes (inv : ContextInv P c) (bs : List Byte) :
    ∀ e ∈ (feedBytes P c h tok bs).2, e.kind = .validData → DeliversValidFrame P c e := by
  induction bs generalizing c with
  | nil => simp
  | cons b bs ih =>
    intro e he hk
    rw [feedBytes_cons, List.mem_append, Option.mem_toList] at he
    rcases he with he | he
    · exact deliversValidFrame_of_rxStep inv (Prod.ext rfl he) hk
    · obtain ⟨m, p, hm, hp, hvalid, hfits⟩ := ih (rxStep_keeps_contextInv inv) e he hk
      obtain ⟨h1, h2⟩ := rxStep_preambles (P := P) (c := c) (h := h) (tok := tok) (b := b)
      exact ⟨m, p, hm, hp, (validFrame_congr h1 h2).mp hvalid, hfits⟩

end

theorem newEvents_of_responses_eq {s t : State} {rs : List Response} (ht : t.responses = s.responses ++ rs) :
    newEvents s t = rs.flatMap Response.Of.events := by
  rw [newEvents, newResponses_of_responses_eq ht]

theorem newEvents_self {s t : State} (ht : t.responses = s.responses) : newEvents s t = [] :=
  newEvents_of_responses_eq (ht.trans (List.append_nil _).symm)

/-- Only FEED answers with events (R83, R89). -/
theorem Answers.events_eq_nil {i : Instr} {s t : State} {r : Response} (answers : Answers i s t r)
    (hi : ∀ h, i ≠ .feed h) : r.events = [] := by
  by_cases hok : r.status = .ok
  · have hres := answers.ok hok
    cases i with
    | create p1 p2 =>
      have hr : r.result = some (.handle _) := hres
      simp [Response.Of.events, hr]
    | crc start =>
      have hr : r.result = some (.crc _) := hres
      simp [Response.Of.events, hr]
    | feed h => exact absurd rfl (hi h)
    | buildSg h =>
      obtain ⟨F, hr, -⟩ := hres
      simp [Response.Of.events, hr]
  · exact Response.Of.events_of_result_none (answers.failed hok)

theorem newEvents_eq_nil_of_exec {i : Instr} {s t : State} (hi : ∀ h, i ≠ .feed h) (ht : exec i s = .next t) :
    newEvents s t = [] := by
  obtain ⟨u, r, hu, answers⟩ := exec_answers i s
  cases hu.symm.trans ht
  rw [newEvents_of_responses_eq answers.responses, List.flatMap_singleton, answers.events_eq_nil hi]

/-- The events of a FEED on a valid handle are those of its bytes; on an invalid one there are none. -/
theorem mem_newEvents_of_exec_feed {s t : State} {h : Handle} {e : Event} (ht : exec (.feed h) s = .next t)
    (he : e ∈ newEvents s t) : h.toNat < s.nCreated ∧
      e ∈ (feedBytes s.params (s.ctx h.toNat) h s.operands.token s.operands.data).2 := by
  by_cases hv : h.toNat < s.nCreated
  · cases (exec_feed_of_valid hv rfl).symm.trans ht
    rw [newEvents_of_responses_eq rfl, List.flatMap_singleton] at he
    exact ⟨hv, he⟩
  · cases (exec_feed_of_invalid (Nat.not_lt.mp hv)).symm.trans ht
    rw [newEvents_of_responses_eq rfl] at he
    cases he

/-- Every VALID_DATA event of a command carries a valid frame for the context it names. -/
theorem deliversValidFrame_of_exec {i : Instr} {s t : State} {e : Event} (inv : s.Inv) (ht : exec i s = .next t)
    (he : e ∈ newEvents s t) (hk : e.kind = .validData) :
    e.handle.toNat < t.nCreated ∧ DeliversValidFrame t.params (t.ctx e.handle.toNat) e := by
  by_cases hi : ∃ h, i = .feed h
  · obtain ⟨h, rfl⟩ := hi
    obtain ⟨hv, hmem⟩ := mem_newEvents_of_exec_feed ht he
    obtain ⟨-, -, -, hctx⟩ := inv
    obtain ⟨m, p, hm, hp, hvalid, hfits⟩ := deliversValidFrame_of_mem_feedBytes (hctx h.toNat hv) _ e hmem hk
    obtain ⟨hn, -, h1, h2⟩ := exec_feed_frame ht
    rw [(handle_token_of_mem_feedBytes _ e hmem).1, hn, (exec_frame ht).params]
    exact ⟨hv, m, p, hm, hp, (validFrame_congr h1 h2).mpr hvalid, hfits⟩
  · rw [newEvents_eq_nil_of_exec (not_exists.mp hi) ht] at he
    cases he

/-- Settles O60: an event comes from a command, and commands deliver valid frames only. -/
theorem onlyValidFramesAreDelivered : Obligations.OnlyValidFramesAreDelivered := by
  unfold Obligations.OnlyValidFramesAreDelivered
  intro s t inv ht e he hk
  rcases step_cases s with ⟨-, ex⟩ | ⟨rest, -, ex⟩ | ⟨w, ops, rest, i, -, -, ex⟩ | ⟨w, ops, rest, why, -, -, ex⟩
  · cases ex.symm.trans ht
    rw [newEvents_self rfl] at he
    cases he
  · cases ex.symm.trans ht
    rw [newEvents_self (s.hardwareReset_responses rest)] at he
    cases he
  · obtain ⟨hn, m, p, hm, hp, hvalid, hfits⟩ :=
      deliversValidFrame_of_exec (s := s.accept ops rest) inv (ex.symm.trans ht) he hk
    exact ⟨m, p, hm, hp, hn, hvalid, hfits⟩
  · cases ex.symm.trans ht
    rw [newEvents_of_responses_eq rfl] at he
    cases he

end Sys2Proof.Machine
end

section
/-!
PROOFS. The algebra of the CRC (R105, R106, R108): one bit of the register is linear over XOR and injective in both bit
orders, and the properties of a byte, and then of a byte sequence, follow from that.
-/

namespace Sys2Proof.Machine

/- ==== One bit ==== -/

/-- What a bit that leaves the register adds to it: the polynomial if it is 1. -/
def feedback (poly : U16) (out : Bool) : U16 := if out then poly else 0x0000#16

theorem feedback_xor (poly : U16) (p q : Bool) : feedback poly (p ^^ q) = feedback poly p ^^^ feedback poly q := by
  cases p <;> cases q <;> simp [feedback]

theorem crcBit_eq (x : U16) : crcBit x = x <<< 1 ^^^ feedback 0x1021#16 (x.getLsbD 15) := by
  unfold crcBit feedback
  split <;> simp

theorem crcBitReflected_eq (x : U16) : crcBitReflected x = x >>> 1 ^^^ feedback 0x8408#16 (x.getLsbD 0) := by
  unfold crcBitReflected feedback
  split <;> simp

theorem crcBit_xor (x y : U16) : crcBit (x ^^^ y) = crcBit x ^^^ crcBit y := by
  simp only [crcBit_eq, BitVec.getLsbD_xor, BitVec.shiftLeft_xor_distrib, feedback_xor]
  ac_rfl

theorem crcBitReflected_xor (x y : U16) : crcBitReflected (x ^^^ y) = crcBitReflected x ^^^ crcBitReflected y := by
  simp only [crcBitReflected_eq, BitVec.getLsbD_xor, BitVec.ushiftRight_xor_distrib, feedback_xor]
  ac_rfl

/-- The bit that leaves comes back at the bottom, so no bit is lost. -/
theorem eq_zero_of_crcBit_eq_zero {x : U16} (hx : crcBit x = 0x0000#16) : x = 0x0000#16 := by
  rw [crcBit_eq] at hx
  have htop : x.getLsbD 15 = false := by
    have hlow := congrArg (BitVec.getLsbD · 0) hx
    cases hout : x.getLsbD 15
    · rfl
    · simp [hout, feedback] at hlow
  have hshift : x <<< 1 = 0x0000#16 := by simpa only [htop, feedback, Bool.false_eq_true, if_false, BitVec.xor_zero] using hx
  apply BitVec.eq_of_getLsbD_eq
  intro i hi
  rw [BitVec.getLsbD_zero]
  by_cases hlast : i = 15
  · rw [hlast, htop]
  · have hbit := congrArg (BitVec.getLsbD · (i + 1)) hshift
    simpa only [BitVec.getLsbD_shiftLeft, show i + 1 < 16 by omega, decide_true, Bool.true_and, Nat.not_lt_zero,
      show ¬ i + 1 < 1 by omega, decide_false, Bool.not_false, Nat.add_sub_cancel, BitVec.getLsbD_zero] using hbit

/-- The bit that leaves comes back at the top, so no bit is lost. -/
theorem eq_zero_of_crcBitReflected_eq_zero {x : U16} (hx : crcBitReflected x = 0x0000#16) : x = 0x0000#16 := by
  rw [crcBitReflected_eq] at hx
  have hlow : x.getLsbD 0 = false := by
    have htop := congrArg (BitVec.getLsbD · 15) hx
    cases hout : x.getLsbD 0
    · rfl
    · simp [hout, feedback] at htop
  have hshift : x >>> 1 = 0x0000#16 := by simpa only [hlow, feedback, Bool.false_eq_true, if_false, BitVec.xor_zero] using hx
  apply BitVec.eq_of_getLsbD_eq
  intro i hi
  rw [BitVec.getLsbD_zero]
  cases i with
  | zero => exact hlow
  | succ i =>
    have hbit := congrArg (BitVec.getLsbD · i) hshift
    simpa only [BitVec.getLsbD_ushiftRight, Nat.add_comm 1, BitVec.getLsbD_zero] using hbit

/- ==== A linear map of the register ==== -/

/-- `f` is linear over XOR, and only zero goes to zero. -/
structure LinearInjective (f : U16 → U16) : Prop where
  xor : ∀ x y, f (x ^^^ y) = f x ^^^ f y
  eq_zero : ∀ x, f x = 0x0000#16 → x = 0x0000#16

theorem LinearInjective.injective {f : U16 → U16} (hf : LinearInjective f) : Function.Injective f := by
  intro x y hxy
  have hdiff : f (x ^^^ y) = 0x0000#16 := by rw [hf.xor, hxy, BitVec.xor_self]
  exact BitVec.xor_eq_zero_iff.mp (hf.eq_zero _ hdiff)

theorem LinearInjective.repeatTimes {f : U16 → U16} (hf : LinearInjective f) (n : Nat) :
    LinearInjective (repeatTimes f n) := by
  induction n with
  | zero => exact ⟨fun _ _ => rfl, fun _ => id⟩
  | succ n ih => exact ⟨fun x y => (congrArg _ (hf.xor x y)).trans (ih.xor _ _), fun x hx => hf.eq_zero x (ih.eq_zero _ hx)⟩

/- ==== Two bytes as a value ==== -/

theorem zeroExtend_eq_join16 (lo : Byte) : lo.zeroExtend 16 = join16 0x00#8 lo := by simp [join16]

theorem join16_xor (a b c d : Byte) : join16 a b ^^^ join16 c d = join16 (a ^^^ c) (b ^^^ d) := by
  simp only [join16_eq_append]
  exact BitVec.xor_append

/-- Moved up by a byte, a value keeps its low byte. -/
theorem join16_shiftLeft (hi lo : Byte) : join16 hi lo <<< 8 = join16 lo 0x00#8 := by
  have hout : hi.zeroExtend 16 <<< 8 <<< 8 = 0x0000#16 := by
    rw [← BitVec.shiftLeft_add]
    exact BitVec.shiftLeft_eq_zero (le_refl 16)
  rw [join16, BitVec.shiftLeft_or_distrib, hout, BitVec.zero_or, shiftLeft_eq_join16]

/- ==== One byte ==== -/

/-- The eight bit-updates of a byte, in the bit order of `P`. -/
def crcShift (P : Params) (x : U16) : U16 := repeatTimes (if P.crcReflected then crcBitReflected else crcBit) 8 x

/-- Where a byte enters the register, in the bit order of `P`. -/
def crcEntry (P : Params) (b : Byte) : U16 := if P.crcReflected then b.zeroExtend 16 else b.zeroExtend 16 <<< 8

/-- `crc_step` in either bit order (R100, R101). -/
theorem crcStep_eq (P : Params) (c : U16) (b : Byte) : crcStep P c b = crcShift P (c ^^^ crcEntry P b) := by
  unfold crcStep crcShift crcEntry
  split <;> rfl

theorem linearInjective_crcShift (P : Params) : LinearInjective (crcShift P) := by
  have hbit : LinearInjective (if P.crcReflected then crcBitReflected else crcBit) := by
    split
    · exact ⟨crcBitReflected_xor, fun _ => eq_zero_of_crcBitReflected_eq_zero⟩
    · exact ⟨crcBit_xor, fun _ => eq_zero_of_crcBit_eq_zero⟩
  exact hbit.repeatTimes 8

/-- A byte enters as the high byte in the forward order and as the low byte in the reflected one. -/
theorem crcEntry_eq_join16 (P : Params) (b : Byte) :
    crcEntry P b = if P.crcReflected then join16 0x00#8 b else join16 b 0x00#8 := by
  rw [crcEntry, zeroExtend_eq_join16, join16_shiftLeft]

theorem crcEntry_xor (P : Params) (a b : Byte) : crcEntry P (a ^^^ b) = crcEntry P a ^^^ crcEntry P b := by
  simp only [crcEntry_eq_join16]
  split <;> rw [join16_xor, BitVec.xor_self]

theorem crcEntry_injective (P : Params) : Function.Injective (crcEntry P) := by
  intro a b hab
  simp only [crcEntry_eq_join16] at hab
  split at hab
  · rw [← extractLsb'_join16_low 0x00#8 a, hab, extractLsb'_join16_low]
  · rw [← extractLsb'_join16_high a 0x00#8, hab, extractLsb'_join16_high]

theorem crcStep_xor (P : Params) (x y : U16) (a b : Byte) :
    crcStep P (x ^^^ y) (a ^^^ b) = crcStep P x a ^^^ crcStep P y b := by
  simp only [crcStep_eq, crcEntry_xor, ← (linearInjective_crcShift P).xor]
  congr 1
  ac_rfl

theorem crcStep_injective_register (P : Params) (b : Byte) : Function.Injective (fun c => crcStep P c b) := by
  intro x y hxy
  simp only [crcStep_eq] at hxy
  exact (BitVec.xor_left_inj _).mp ((linearInjective_crcShift P).injective hxy)

theorem crcStep_injective_byte (P : Params) (c : U16) : Function.Injective (crcStep P c) := by
  intro a b hab
  rw [crcStep_eq, crcStep_eq] at hab
  exact crcEntry_injective P ((BitVec.xor_right_inj _).mp ((linearInjective_crcShift P).injective hab))

theorem crcStep_zero (P : Params) : crcStep P 0x0000#16 0x00#8 = 0x0000#16 := by
  have hzero := crcStep_xor P 0x0000#16 0x0000#16 0x00#8 0x00#8
  rwa [BitVec.xor_self, BitVec.xor_self, BitVec.xor_self] at hzero

/-- Settles O20: the update is injective on a finite type. -/
theorem crcStepIsBijective : Obligations.CrcStepIsBijective := by
  unfold Obligations.CrcStepIsBijective
  exact fun P b => Finite.injective_iff_bijective.mp (crcStep_injective_register P b)

/- ==== Byte sequences ==== -/

/-- Settles O21, by induction on the two sequences together. -/
theorem crcIsLinearOverXor : Obligations.CrcIsLinearOverXor := by
  unfold Obligations.CrcIsLinearOverXor
  intro P A
  induction A with
  | nil =>
    rintro (_ | ⟨b, B⟩) x y hlen
    · rfl
    · cases hlen
  | cons a A ih =>
    rintro (_ | ⟨b, B⟩) x y hlen
    · cases hlen
    · rw [List.zipWith_cons_cons, crc16_cons, crc16_cons, crc16_cons, crcStep_xor]
      exact ih B _ _ (Nat.succ.inj hlen)

/-- Settles O22, by induction on the number of bytes. -/
theorem crcOfZeroBytesKeepsZero : Obligations.CrcOfZeroBytesKeepsZero := by
  unfold Obligations.CrcOfZeroBytesKeepsZero
  intro P n
  induction n with
  | zero => rfl
  | succ n ih => rw [List.replicate_succ, crc16_cons, crcStep_zero, ih]

theorem crc16_injective_register (P : Params) (bs : List Byte) : Function.Injective (crc16 P bs) := by
  induction bs with
  | nil => exact fun _ _ => id
  | cons b bs ih => exact fun x y hxy => crcStep_injective_register P b (ih hxy)

theorem xor_bit_ne (b : Byte) {k : Nat} (hk : k < 8) : b ^^^ 1#8 <<< k ≠ b := by
  have hmask : ∀ k < 8, 1#8 <<< k ≠ 0x00#8 := by decide
  intro heq
  rw [← BitVec.xor_zero (x := b), BitVec.xor_assoc, BitVec.zero_xor] at heq
  exact hmask k hk ((BitVec.xor_right_inj b).mp heq)

/-- One flipped bit changes the CRC (R189). -/
theorem crc16_flipBit_ne (P : Params) {bs : List Byte} {i k : Nat} (hi : i < bs.length) (hk : k < 8) (start : U16) :
    crc16 P (flipBit bs i k) start ≠ crc16 P bs start := by
  induction bs generalizing i start with
  | nil => exact absurd hi (Nat.not_lt_zero i)
  | cons b bs ih =>
    cases i with
    | zero =>
      intro heq
      exact xor_bit_ne b hk (crcStep_injective_byte P start (crc16_injective_register P bs heq))
    | succ i => exact ih (Nat.lt_of_succ_lt_succ hi) (crcStep P start b)

/- ==== The forward order ==== -/

section
variable {P : Params} (hP : P.crcReflected = false)

/-- While the bits that leave are 0 the register only shifts. -/
theorem repeatTimes_crcBit_eq_shiftLeft (n : Nat) (x : U16) (hx : ∀ i < n, x.getLsbD (15 - i) = false) :
    repeatTimes crcBit n x = x <<< n := by
  induction n generalizing x with
  | zero => simp [repeatTimes]
  | succ n ih =>
    have hfirst : crcBit x = x <<< 1 := by
      rw [crcBit_eq, hx 0 (Nat.succ_pos n)]
      exact BitVec.xor_zero
    have hrest : ∀ i < n, (x <<< 1).getLsbD (15 - i) = false := by
      intro i hi
      rw [BitVec.getLsbD_shiftLeft, Nat.sub_sub, hx (i + 1) (by omega), Bool.and_false]
    rw [repeatTimes, hfirst, ih _ hrest, ← BitVec.shiftLeft_add, Nat.add_comm]

include hP

/-- A register whose high byte is zero takes a zero byte by a shift. -/
theorem crcShift_low (lo : Byte) : crcShift P (join16 0x00#8 lo) = join16 lo 0x00#8 := by
  have hhigh : ∀ i < 8, (join16 0x00#8 lo).getLsbD (15 - i) = false := by
    intro i hi
    rw [← zeroExtend_eq_join16, BitVec.getLsbD_setWidth, BitVec.getLsbD_of_ge lo (15 - i) (by omega), Bool.and_false]
  rw [crcShift, hP, ← join16_shiftLeft 0x00#8 lo]
  exact repeatTimes_crcBit_eq_shiftLeft 8 _ hhigh

/-- One byte of the forward CRC: the register's high byte goes with the data, its low byte moves up. -/
theorem crcStep_join16 (hi lo b : Byte) :
    crcStep P (join16 hi lo) b = join16 lo 0x00#8 ^^^ crcStep P 0x0000#16 (hi ^^^ b) := by
  have hentry (d : Byte) : crcEntry P d = join16 d 0x00#8 := by rw [crcEntry_eq_join16, hP]; rfl
  have hsplit : join16 hi lo ^^^ crcEntry P b = join16 0x00#8 lo ^^^ crcEntry P (hi ^^^ b) := by
    rw [hentry, hentry, join16_xor, join16_xor, BitVec.zero_xor]
  rw [crcStep_eq, crcStep_eq, hsplit, (linearInjective_crcShift P).xor, crcShift_low hP, BitVec.zero_xor]

/-- Its own high byte cancels the register's, and its low byte moves up. -/
theorem crcStep_own_high_byte (hi lo : Byte) : crcStep P (join16 hi lo) hi = join16 lo 0x00#8 := by
  rw [crcStep_join16 hP, BitVec.xor_self, crcStep_zero, BitVec.xor_zero]

end

/-- Settles O23: the two bytes of the CRC cancel first the high and then the low byte of the register. -/
theorem crcResidueIsZero : Obligations.CrcResidueIsZero := by
  unfold Obligations.CrcResidueIsZero
  intro P M hP
  have hcancel (hi lo : Byte) : crc16 P [hi, lo] (join16 hi lo) = 0x0000#16 := by
    rw [crc16_cons, crc16_cons, crc16_nil, crcStep_own_high_byte hP, crcStep_own_high_byte hP]
    rfl
  have hself := hcancel ((crc16 P M 0x0000#16).extractLsb' 8 8) ((crc16 P M 0x0000#16).extractLsb' 0 8)
  rw [join16_extractLsb'] at hself
  exact (crc16_append P M _ _).trans hself

/-- The printed table is that of the update of a zero register (R105). -/
theorem crcTable_eq : crcTable = List.ofFn fun i : Fin 256 => crcStepForward 0x0000#16 (BitVec.ofFin i) := by
  decide +kernel

theorem crcTable_getElem? (i : Byte) : crcTable[i.toNat]? = some (crcStepForward 0x0000#16 i) := by
  rw [crcTable_eq, List.getElem?_ofFn]
  exact dif_pos i.isLt

/-- Settles O19: the table holds what the register's high byte and the data byte give, and by linearity the low byte just moves
up. -/
theorem crcStepEqualsTableForm : Obligations.CrcStepEqualsTableForm := by
  unfold Obligations.CrcStepEqualsTableForm
  intro P hP
  refine ⟨fun c b => ?byte, by rw [crcTable_eq, List.length_ofFn], fun i => ?entry⟩
  case byte =>
    have hstep := crcStep_join16 hP (c.extractLsb' 8 8) (c.extractLsb' 0 8) b
    rw [← join16_shiftLeft (c.extractLsb' 8 8), join16_extractLsb', crcStep_forward hP 0x0000#16] at hstep
    rw [hstep, crcStepTable, List.getD_eq_getElem?_getD, crcTable_getElem?, Option.getD_some]
  case entry => rw [crcTable_getElem?, crcStep_forward hP]

/-- Settles O24, by evaluation in each bit order. -/
theorem crcReferenceCheckValues : Obligations.CrcReferenceCheckValues := by
  unfold Obligations.CrcReferenceCheckValues
  refine fun P => ⟨fun hP => ?forward, fun hP => ?reflected, crc16_nil P _⟩
  case forward =>
    simp only [crc16_cons, crc16_nil, crcStep_forward hP]
    decide +kernel
  case reflected =>
    simp only [crc16_cons, crc16_nil, crcStep_reflected hP]
    decide +kernel

end Sys2Proof.Machine
end

section
/-!
PROOFS. What BUILD_SG depends on (R60, R141, R149): the parameters, `n_created`, its context's preambles, and of its segments
the bytes and whether they are too many.
-/

namespace Sys2Proof.Machine

/-- `t` agrees with `s` on everything that settles what a BUILD_SG on `h` returns. -/
structure SameBuild (h : Handle) (s t : State) : Prop where
  params : s.params = t.params
  nCreated : s.nCreated = t.nCreated
  p1 : (s.ctx h.toNat).p1 = (t.ctx h.toNat).p1
  p2 : (s.ctx h.toNat).p2 = (t.ctx h.toNat).p2
  count : segmentsExceed s.params.maxSegments s.operands.segs.length =
    segmentsExceed s.params.maxSegments t.operands.segs.length
  payload : s.operands.segs.flatten = t.operands.segs.flatten

/-- Two such states get the same response. -/
theorem exec_buildSg_congr {h : Handle} {s t : State} (same : SameBuild h s t) :
    ∃ r, exec (.buildSg h) s = .next (s.respond r) ∧ exec (.buildSg h) t = .next (t.respond r) := by
  obtain ⟨hparams, hn, h1, h2, hcount, hpayload⟩ := same
  have htotal : totalLength s.operands.segs = totalLength t.operands.segs := by
    rw [totalLength_eq_length_flatten, totalLength_eq_length_flatten, hpayload]
  have hframe : buildFrame s.params (s.ctx h.toNat) s.operands.segs = buildFrame t.params (t.ctx h.toNat) t.operands.segs := by
    rw [buildFrame_eq, buildFrame_eq, hparams, h1, h2, hpayload]
  by_cases hbad : BadArgument s h
  · refine ⟨_, exec_buildSg_of_invalid hbad, exec_buildSg_of_invalid ?_⟩
    rw [← hn, ← hparams, ← hcount, ← htotal]
    exact hbad
  · obtain ⟨hv, hok, hwidth⟩ := not_badArgument_iff.mp hbad
    have hv' : h.toNat < t.nCreated := hn ▸ hv
    have hok' : segmentsExceed t.params.maxSegments t.operands.segs.length = false := hparams ▸ hcount ▸ hok
    rcases exec_buildSg_of_valid hv hok hwidth with ⟨hcap, e⟩ | ⟨hfits, e⟩
    · exact ⟨_, e, exec_buildSg_of_over_capacity hv' hok' (htotal ▸ hwidth) (by rwa [← hparams, ← htotal])⟩
    · refine ⟨_, e, ?_⟩
      rw [hframe]
      exact exec_buildSg_of_fits hv' hok' (htotal ▸ hwidth) (by rwa [← hparams, ← htotal])

theorem newResponses_congr_of_exec_buildSg {h : Handle} {s t s' t' : State} (same : SameBuild h s t)
    (hs : exec (.buildSg h) s = .next s') (ht : exec (.buildSg h) t = .next t') :
    newResponses s s' = newResponses t t' := by
  obtain ⟨r, es, et⟩ := exec_buildSg_congr same
  cases es.symm.trans hs
  cases et.symm.trans ht
  rw [newResponses_respond r rfl, newResponses_respond r rfl]

/-- Settles O34: the two operands differ in their segments alone, which agree on what matters. -/
theorem segmentationDoesNotChangeFrame : Obligations.SegmentationDoesNotChangeFrame := by
  unfold Obligations.SegmentationDoesNotChangeFrame
  intro s t u h S T hflat hcount ht hu
  have same : SameBuild h (s.withSegs S) (s.withSegs T) := ⟨rfl, rfl, rfl, rfl, hcount, hflat⟩
  have hresp := newResponses_congr_of_exec_buildSg same ht hu
  exact hresp

/-- Settles O35: BUILD_SG does nothing but answer, without events, and its answer reads no receive state. -/
theorem buildSgNeitherWritesNorReadsReceiveState : Obligations.BuildSgNeitherWritesNorReadsReceiveState := by
  unfold Obligations.BuildSgNeitherWritesNorReadsReceiveState
  refine ⟨fun s t h ht => ?writes, fun s t s' t' h hparams hn hops h1 h2 hs ht => ?reads⟩
  case writes =>
    obtain ⟨u, r, hu, answers⟩ := exec_answers (.buildSg h) s
    obtain ⟨q, e⟩ := execBuildSg_respond h s
    cases hu.symm.trans ht
    have hr : t.responses = s.responses ++ [r] ∧ r.events = [] := ⟨answers.responses, answers.events_eq_nil nofun⟩
    cases e.symm.trans ht
    exact ⟨rfl, rfl, rfl, rfl, rfl, r, hr⟩
  case reads =>
    have same : SameBuild h s t := ⟨hparams, hn, h1, h2, by rw [hops], by rw [hops]⟩
    exact newResponses_congr_of_exec_buildSg same hs ht

end Sys2Proof.Machine
end

section
/-!
PROOFS. Uncreated slots are never observed (R37, R230): states that differ in nothing else step alike. After a hardware reset
every slot is uncreated.
-/

namespace Sys2Proof.Machine

theorem sameCreated_respond {s t : State} (same : SameCreated s t) (r : Response) :
    SameCreated (s.respond r) (t.respond r) := by
  obtain ⟨hparams, hn, hpending, hops, hr, hl, hctx⟩ := same
  exact ⟨hparams, hn, hpending, hops, congrArg (· ++ [r]) hr, hl, hctx⟩

/-- After the same context is written to the same slot, the slots below `n` are alike if they were, that slot aside. -/
theorem setCtx_ctx_congr {s t : State} {h k : Nat} (c : Context) (hl : s.slots.length = t.slots.length)
    (hk : k ≠ h → s.ctx k = t.ctx k) : (s.setCtx h c).ctx k = (t.setCtx h c).ctx k := by
  by_cases hkh : k = h
  · rw [hkh]
    exact State.Of.setCtx_ctx_self_congr hl h c
  · rw [s.setCtx_ctx_of_ne h k c hkh, t.setCtx_ctx_of_ne h k c hkh, hk hkh]

theorem sameCreated_setCtx {s t : State} (same : SameCreated s t) (h : Nat) (c : Context) :
    SameCreated (s.setCtx h c) (t.setCtx h c) := by
  obtain ⟨hparams, hn, hpending, hops, hr, hl, hctx⟩ := same
  exact ⟨hparams, hn, hpending, hops, hr, by simp [hl], fun k hk => setCtx_ctx_congr c hl fun _ => hctx k hk⟩

/-- CREATE writes the whole of the slot it makes observable. -/
theorem sameCreated_addContext {s t : State} (same : SameCreated s t) (p1 p2 : Byte) :
    SameCreated (s.addContext p1 p2) (t.addContext p1 p2) := by
  obtain ⟨hparams, hn, hpending, hops, hr, hl, hctx⟩ := same
  have hslots : ∀ k < s.nCreated + 1, (s.addContext p1 p2).ctx k = (t.addContext p1 p2).ctx k := by
    intro k hk
    have hold : k ≠ s.nCreated → s.ctx k = t.ctx k := fun hne => hctx k (lt_of_le_of_ne (Nat.lt_succ_iff.mp hk) hne)
    have hnew := setCtx_ctx_congr (createdContext p1 p2) hl hold
    unfold State.Of.addContext
    rw [← hn]
    exact hnew
  exact ⟨hparams, congrArg (· + 1) hn, hpending, hops, hr, by simp [State.Of.addContext, hl], hslots⟩

/-- Every command does alike in two such states. -/
theorem exec_sameCreated {s t : State} (same : SameCreated s t) (i : Instr) :
    ∃ s' t', exec i s = .next s' ∧ exec i t = .next t' ∧ SameCreated s' t' := by
  have ⟨hparams, hn, _, hops, _, _, hctx⟩ := same
  cases i with
  | create p1 p2 =>
    by_cases hfull : s.nCreated = s.params.maxInstances
    · exact ⟨_, _, exec_create_of_full hfull p1 p2, exec_create_of_full (hn ▸ hparams ▸ hfull) p1 p2,
        sameCreated_respond same _⟩
    · refine ⟨_, _, exec_create_of_free hfull p1 p2, exec_create_of_free (hn ▸ hparams ▸ hfull) p1 p2, ?_⟩
      rw [← hn]
      exact sameCreated_respond (sameCreated_addContext same p1 p2) _
  | crc start =>
    refine ⟨_, _, exec_crc start s, exec_crc start t, ?_⟩
    rw [← hparams, ← hops]
    exact sameCreated_respond same _
  | feed h =>
    by_cases hv : h.toNat < s.nCreated
    · refine ⟨_, _, exec_feed_of_valid hv rfl, exec_feed_of_valid (hn ▸ hv) rfl, ?_⟩
      rw [← hparams, ← hops, ← hctx h.toNat hv]
      exact sameCreated_respond (sameCreated_setCtx same _ _) _
    · have hinvalid := Nat.not_lt.mp hv
      exact ⟨_, _, exec_feed_of_invalid hinvalid, exec_feed_of_invalid (hn ▸ hinvalid), sameCreated_respond same _⟩
  | buildSg h =>
    by_cases hv : h.toNat < s.nCreated
    · have build : SameBuild h s t :=
        ⟨hparams, hn, by rw [hctx _ hv], by rw [hctx _ hv], by rw [hops], by rw [hops]⟩
      obtain ⟨r, es, et⟩ := exec_buildSg_congr build
      exact ⟨_, _, es, et, sameCreated_respond same r⟩
    · have hinvalid := Nat.not_lt.mp hv
      exact ⟨_, _, exec_buildSg_of_invalid (.inl hinvalid), exec_buildSg_of_invalid (.inl (hn ▸ hinvalid)),
        sameCreated_respond same _⟩

/-- Settles O55: the two states have the same input at the head of the port, so both steps are of one kind. -/
theorem uncreatedSlotsAreUnobservable : Obligations.UncreatedSlotsAreUnobservable := by
  unfold Obligations.UncreatedSlotsAreUnobservable
  intro s t same
  have ⟨hparams, hn, hpending, hops, hr, hl, hctx⟩ := same
  rcases step_cases s with
    ⟨hp, e⟩ | ⟨rest, hp, e⟩ | ⟨w, ops, rest, i, hp, hd, e⟩ | ⟨w, ops, rest, why, hp, hd, e⟩ <;> rw [hpending] at hp
  · exact ⟨s, t, e, step_of_pending_nil hp, same⟩
  · refine ⟨_, _, e, step_of_reset hp, hparams, rfl, rfl, hops, hr, ?_, fun h hlt => absurd hlt (Nat.not_lt_zero h)⟩
    simp [hparams]
  · have accepted : SameCreated (s.accept ops rest) (t.accept ops rest) := ⟨hparams, hn, rfl, rfl, hr, hl, hctx⟩
    obtain ⟨s', t', hs, ht, after⟩ := exec_sameCreated accepted i
    exact ⟨s', t', e.trans hs, (step_of_decode_legal hp hd).trans ht, after⟩
  · have taken : SameCreated { s with pending := rest } { t with pending := rest } :=
      ⟨hparams, hn, rfl, hops, hr, hl, hctx⟩
    exact ⟨_, _, e, step_of_decode_illegal hp hd, sameCreated_respond taken _⟩

/-- With no context created every handle check fails (R121, R147). -/
theorem exec_onHandle_of_none_created {s : State} (hn : s.nCreated = 0) (h : Handle) :
    exec (.feed h) s = .next (s.respond { status := .invalidInstance, result := none }) ∧
      exec (.buildSg h) s = .next (s.respond { status := .invalidArgument, result := none }) := by
  have hinvalid : s.nCreated ≤ h.toNat := hn ▸ Nat.zero_le _
  exact ⟨exec_feed_of_invalid hinvalid, exec_buildSg_of_invalid (.inl hinvalid)⟩

/-- Settles O14: the reset leaves no context created; and while there is none, states that differ in their slots alone differ
only in uncreated ones. -/
theorem hardwareResetUncreatesEveryContext : Obligations.HardwareResetUncreatesEveryContext := by
  unfold Obligations.HardwareResetUncreatesEveryContext
  refine ⟨fun s rest hp => ?reset, fun t slots i hn hl => ?slots⟩
  case reset =>
    exact ⟨_, step_of_reset hp, rfl, rfl, rfl, rfl, rfl, exec_onHandle_of_none_created rfl⟩
  case slots =>
    have same : SameCreated t { t with slots := slots } :=
      ⟨rfl, rfl, rfl, rfl, rfl, hl.symm, fun k hk => absurd hk (hn ▸ Nat.not_lt_zero k)⟩
    obtain ⟨u, v, hu, hv, -, hnuv, -, -, hr, -, hctx⟩ := exec_sameCreated same i
    exact ⟨u, v, hu, hv, hr, hnuv, hctx⟩

/-- Settles O15: right after reset no context is created, and CRC needs none. -/
theorem behaviourRightAfterReset : Obligations.BehaviourRightAfterReset := by
  unfold Obligations.BehaviourRightAfterReset
  rintro P ops s rfl
  exact ⟨rfl, List.length_replicate, fun start => exec_crc start _, exec_onHandle_of_none_created rfl⟩

end Sys2Proof.Machine
end

section
/-!
PROOFS. What the receiver does not depend on: fields the current frame has not written (R38, R32), and the token (D24).
-/

namespace Sys2Proof.Machine

/- ==== Stale fields ==== -/

section
variable {TOKEN : Type} {P : Params} {c d : Context} {h : Handle} {tok : TOKEN} {b : Byte}

theorem SameLive.refl (c : Context) : SameLive c c :=
  ⟨rfl, rfl, rfl, rfl, fun _ => rfl, fun _ => rfl, fun _ => ⟨rfl, rfl⟩⟩

/-- In the search only the configuration and the parse state are live. -/
theorem sameLive_of_search (h1 : c.p1 = d.p1) (h2 : c.p2 = d.p2) (hst : c.st = d.st)
    (hs : c.st = .seekP1 ∨ c.st = .seekP2) : SameLive c d := by
  rcases hs with hs | hs <;> simp [SameLive, h1, h2, hs, ← hst, stagedBytes]

/-- In DATA everything is live but the expected header CRC and the hidden bit. -/
theorem SameLive.eq_of_data (same : SameLive c d) (hs : c.st = .data) :
    d = { c with hcrcExp := d.hcrcExp, rxHeld := d.rxHeld } := by
  obtain ⟨h1, h2, hst, hhdr, hlen, -, hrx⟩ := same
  obtain ⟨p1, p2, st, len, ⟨b0, b1, b2, b3, b4, b5, b6, b7⟩, exp, rx, crc, held⟩ := c
  obtain ⟨q1, q2, su, len', ⟨a0, a1, a2, a3, a4, a5, a6, a7⟩, exp', rx', crc', held'⟩ := d
  cases hs
  simp_all [stagedBytes, Header.toList]

/-- In HCRC_LO all is live that a header match keeps, the byte to come aside. -/
theorem SameLive.stageHcrcLo_eq (same : SameLive c d) (hs : c.st = .hcrcLo) (b : Byte) :
    stageHcrcLo d b =
      { stageHcrcLo c b with rx := d.rx, rxCrc := d.rxCrc, rxHeld := d.rxHeld } := by
  obtain ⟨h1, h2, hst, hhdr, hlen, hexp, -⟩ := same
  obtain ⟨p1, p2, st, len, ⟨b0, b1, b2, b3, b4, b5, b6, b7⟩, exp, rx, crc, held⟩ := c
  obtain ⟨q1, q2, su, len', ⟨a0, a1, a2, a3, a4, a5, a6, a7⟩, exp', rx', crc', held'⟩ := d
  cases hs
  simp_all [stagedBytes, Header.toList, stageHcrcLo]

/-- One byte on two such contexts emits the same event and leaves two such contexts. -/
def StepsAlike (P : Params) (c d : Context) (h : Handle) (tok : TOKEN) (b : Byte) : Prop :=
  (rxStep P c h tok b).2 = (rxStep P d h tok b).2 ∧ SameLive (rxStep P c h tok b).1 (rxStep P d h tok b).1

theorem rxStep_sameLive_of_search (same : SameLive c d) (hs : c.st = .seekP1 ∨ c.st = .seekP2) :
    StepsAlike P c d h tok b := by
  have ⟨h1, h2, hst, _⟩ := same
  rcases hs with hs | hs <;> have hd := hst.symm.trans hs
  · rw [StepsAlike, rxStep_of_seekP1 hs, rxStep_of_seekP1 hd, rxSeekP1, rxSeekP1, ← h1]
    split_ifs
    · exact ⟨rfl, sameLive_of_search rfl h2 rfl (.inr rfl)⟩
    · exact ⟨rfl, same⟩
  · rw [StepsAlike, rxStep_of_seekP2 hs, rxStep_of_seekP2 hd, rxSeekP2, rxSeekP2, ← h1, ← h2]
    split_ifs
    · exact ⟨rfl, rfl, rfl, rfl, rfl, nofun, nofun, nofun⟩
    · exact ⟨rfl, same⟩
    · exact ⟨rfl, sameLive_of_search rfl rfl rfl (.inl rfl)⟩

theorem rxStep_sameLive_of_hcrcLo (same : SameLive c d) (hs : c.st = .hcrcLo) : StepsAlike P c d h tok b := by
  have hstage := same.stageHcrcLo_eq hs b
  have ⟨h1, h2, hst, _⟩ := same
  rw [StepsAlike, rxStep_of_hcrcLo hs, rxStep_of_hcrcLo (hst.symm.trans hs), rxHcrcLo, rxHcrcLo, hstage]
  dsimp only
  split_ifs
  · exact ⟨rfl, sameLive_of_search rfl rfl rfl (.inl rfl)⟩
  · exact ⟨rfl, .refl _⟩

/-- A completed payload is judged by its own CRC and the staged one. -/
theorem completePayload_sameLive (h1 : c.p1 = d.p1) (h2 : c.p2 = d.p2) (hhdr : c.hdr = d.hdr) (hrx : c.rx = d.rx)
    (hcrc : c.rxCrc = d.rxCrc) :
    (completePayload c h tok).2 = (completePayload d h tok).2 ∧
      SameLive (completePayload c h tok).1 (completePayload d h tok).1 := by
  unfold completePayload Context.dcrcExp
  rw [← hhdr, ← hrx, ← hcrc]
  split_ifs
  · exact ⟨rfl, sameLive_of_search h1 h2 rfl (.inl rfl)⟩
  · exact ⟨rfl, sameLive_of_search h1 h2 rfl (.inl rfl)⟩

theorem rxStep_sameLive_of_data (hs : c.st = .data) (exp : U16) (held : Bool) :
    StepsAlike P c { c with hcrcExp := exp, rxHeld := held } h tok b := by
  by_cases hlen : c.rx.length + 1 = c.len.toNat
  · rw [StepsAlike, rxStep_of_payload_complete hs hlen,
      rxStep_of_payload_complete (c := { c with hcrcExp := exp, rxHeld := held }) hs hlen]
    exact completePayload_sameLive rfl rfl rfl rfl rfl
  · rw [StepsAlike, rxStep_of_payload_incomplete hs hlen,
      rxStep_of_payload_incomplete (c := { c with hcrcExp := exp, rxHeld := held }) hs hlen]
    have hlo : c.st ≠ .hcrcLo := by simp [hs]
    exact ⟨rfl, rfl, rfl, rfl, rfl, fun _ => rfl, fun hl => absurd hl hlo, fun _ => ⟨rfl, rfl⟩⟩

theorem rxStep_sameLive (same : SameLive c d) : StepsAlike P c d h tok b := by
  have ⟨h1, h2, hst, hhdr, hlen, _, _⟩ := same
  cases hs : c.st with
  | seekP1 => exact rxStep_sameLive_of_search same (.inl hs)
  | seekP2 => exact rxStep_sameLive_of_search same (.inr hs)
  | lenHi =>
    rw [hs] at hhdr
    rw [StepsAlike, rxStep_of_lenHi hs, rxStep_of_lenHi (hst.symm.trans hs)]
    refine ⟨rfl, h1, h2, rfl, ?_, fun _ => rfl, nofun, nofun⟩
    simpa [rxLenHi, stagedBytes, Header.toList] using hhdr
  | lenLo =>
    rw [hs] at hhdr hlen
    rw [StepsAlike, rxStep_of_lenLo hs, rxStep_of_lenLo (hst.symm.trans hs)]
    refine ⟨rfl, h1, h2, rfl, ?_, fun _ => congrArg (· ||| b.zeroExtend 16) (hlen (by decide)), nofun, nofun⟩
    simpa [rxLenLo, stagedBytes, Header.toList] using hhdr
  | dcrcHi =>
    rw [hs] at hhdr hlen
    rw [StepsAlike, rxStep_of_dcrcHi hs, rxStep_of_dcrcHi (hst.symm.trans hs)]
    refine ⟨rfl, h1, h2, rfl, ?_, fun _ => hlen (by decide), nofun, nofun⟩
    simpa [rxDcrcHi, stagedBytes, Header.toList] using hhdr
  | dcrcLo =>
    rw [hs] at hhdr hlen
    rw [StepsAlike, rxStep_of_dcrcLo hs, rxStep_of_dcrcLo (hst.symm.trans hs)]
    refine ⟨rfl, h1, h2, rfl, ?_, fun _ => hlen (by decide), nofun, nofun⟩
    simpa [rxDcrcLo, stagedBytes, Header.toList] using hhdr
  | hcrcHi =>
    rw [hs] at hhdr hlen
    rw [StepsAlike, rxStep_of_hcrcHi hs, rxStep_of_hcrcHi (hst.symm.trans hs)]
    refine ⟨rfl, h1, h2, rfl, ?_, fun _ => hlen (by decide), fun _ => rfl, nofun⟩
    simpa [rxHcrcHi, stagedBytes, Header.toList] using hhdr
  | hcrcLo => exact rxStep_sameLive_of_hcrcLo same hs
  | data =>
    rw [same.eq_of_data hs]
    exact rxStep_sameLive_of_data hs d.hcrcExp d.rxHeld

end

/-- Settles O56, by induction on the bytes. -/
theorem staleReceiveFieldsAreUnobservable : Obligations.StaleReceiveFieldsAreUnobservable := by
  unfold Obligations.StaleReceiveFieldsAreUnobservable
  intro P c d h tok data same
  induction data generalizing c d with
  | nil => exact ⟨rfl, same⟩
  | cons b bs ih =>
    obtain ⟨hevent, hnext⟩ := rxStep_sameLive (P := P) (h := h) (tok := tok) (b := b) same
    obtain ⟨hevents, hafter⟩ := ih _ _ hnext
    rw [feedBytes_cons, feedBytes_cons, hevent, hevents]
    exact ⟨rfl, hafter⟩

/- ==== The token ==== -/

section
variable {A B : Type} (f : A → B) {P : Params} {c : Context} {h : Handle} {tok : A} {b : Byte}

/-- What a byte does with the token mapped: the same context, and the same event with its token mapped. -/
def MapsToken (step : Context × Option (Event.Of A)) (step' : Context × Option (Event.Of B)) : Prop :=
  step' = (step.1, step.2.map (Event.Of.mapToken f))

theorem rxHcrcLo_mapsToken : MapsToken f (rxHcrcLo P c h tok b) (rxHcrcLo P c h (f tok) b) := by
  unfold MapsToken rxHcrcLo acceptHeader completeEmpty
  dsimp only
  split_ifs <;> rfl

theorem rxData_mapsToken : MapsToken f (rxData P c h tok b) (rxData P c h (f tok) b) := by
  unfold MapsToken rxData completePayload
  dsimp only
  split_ifs <;> rfl

theorem rxStep_mapsToken : MapsToken f (rxStep P c h tok b) (rxStep P c h (f tok) b) := by
  cases hs : c.st with
  | seekP1 =>
    rw [MapsToken, rxStep_of_seekP1 hs, rxStep_of_seekP1 hs, rxSeekP1, rxSeekP1]
    split <;> rfl
  | seekP2 =>
    rw [MapsToken, rxStep_of_seekP2 hs, rxStep_of_seekP2 hs, rxSeekP2, rxSeekP2]
    split_ifs <;> rfl
  | lenHi => rw [MapsToken, rxStep_of_lenHi hs, rxStep_of_lenHi hs]; rfl
  | lenLo => rw [MapsToken, rxStep_of_lenLo hs, rxStep_of_lenLo hs]; rfl
  | dcrcHi => rw [MapsToken, rxStep_of_dcrcHi hs, rxStep_of_dcrcHi hs]; rfl
  | dcrcLo => rw [MapsToken, rxStep_of_dcrcLo hs, rxStep_of_dcrcLo hs]; rfl
  | hcrcHi => rw [MapsToken, rxStep_of_hcrcHi hs, rxStep_of_hcrcHi hs]; rfl
  | hcrcLo => rw [rxStep_of_hcrcLo hs, rxStep_of_hcrcLo hs]; exact rxHcrcLo_mapsToken f
  | data => rw [rxStep_of_data hs, rxStep_of_data hs]; exact rxData_mapsToken f

/-- The receiver copies the token and does nothing else with it. -/
theorem feedBytes_mapToken (bs : List Byte) :
    feedBytes P c h (f tok) bs = ((feedBytes P c h tok bs).1, (feedBytes P c h tok bs).2.map (Event.Of.mapToken f)) := by
  induction bs generalizing c with
  | nil => rfl
  | cons b bs ih =>
    have hstep : rxStep P c h (f tok) b = _ := rxStep_mapsToken f
    rw [feedBytes_cons, feedBytes_cons, hstep, ih, List.map_append]
    cases (rxStep P c h tok b).2 <;> rfl

end

/-- Feeding with another token gives the events another token. -/
theorem feedBytes_retoken (P : Params) (c : Context) (h : Handle) (tok tok' : Token) (bs : List Byte) :
    feedBytes P c h tok' bs = ((feedBytes P c h tok bs).1, (feedBytes P c h tok bs).2.map (Event.Of.retoken tok')) :=
  feedBytes_mapToken (fun _ => tok') bs

/-- What a FEED of `data` with the token `tok` does to the slots, and the events it returns. -/
theorem slots_newEvents_of_withFeed {s t : State} {h : Handle} {tok : Token} {data : List Byte}
    (hv : h.toNat < s.nCreated) (ht : exec (.feed h) (s.withFeed tok data) = .next t) :
    t.slots = s.slots.set h.toNat (feedBytes s.params (s.ctx h.toNat) h tok data).1 ∧
      newEvents s t = (feedBytes s.params (s.ctx h.toNat) h tok data).2 := by
  cases (exec_feed_of_valid (s := s.withFeed tok data) hv rfl).symm.trans ht
  exact ⟨rfl, (newEvents_of_responses_eq rfl).trans (List.flatMap_singleton _ _)⟩

theorem slots_newEvents_of_withFeed_invalid {s t : State} {h : Handle} {tok : Token} {data : List Byte}
    (hv : s.nCreated ≤ h.toNat) (ht : exec (.feed h) (s.withFeed tok data) = .next t) :
    t.slots = s.slots ∧ newEvents s t = [] := by
  cases (exec_feed_of_invalid (s := s.withFeed tok data) hv).symm.trans ht
  exact ⟨rfl, newEvents_of_responses_eq (rs := [{ status := .invalidInstance, result := none }]) rfl⟩

/-- Settles O57: two FEEDs both fail, or both feed their bytes. -/
theorem tokenIsOnlyCopied : Obligations.TokenIsOnlyCopied := by
  unfold Obligations.TokenIsOnlyCopied
  refine ⟨fun s t u h tok tok' data ht hu => ?feeds, fun A B f P c h tok data => feedBytes_mapToken f data⟩
  case feeds =>
    by_cases hv : h.toNat < s.nCreated
    · obtain ⟨htslots, htevents⟩ := slots_newEvents_of_withFeed hv ht
      obtain ⟨huslots, huevents⟩ := slots_newEvents_of_withFeed hv hu
      rw [feedBytes_retoken _ _ _ tok] at huslots huevents
      rw [htslots, huslots, htevents, huevents]
      exact ⟨rfl, rfl, fun e he => (handle_token_of_mem_feedBytes data e he).2⟩
    · obtain ⟨htslots, htevents⟩ := slots_newEvents_of_withFeed_invalid (Nat.not_lt.mp hv) ht
      obtain ⟨huslots, huevents⟩ := slots_newEvents_of_withFeed_invalid (Nat.not_lt.mp hv) hu
      rw [htslots, huslots, htevents, huevents]
      exact ⟨rfl, rfl, nofun⟩

end Sys2Proof.Machine
end

section
/-!
PROOFS. A byte stream and its chunks (R83, R161, R182, R183): how a run of FEEDs adds up, and how a stream without a preamble
stays silent (R188).
-/

namespace Sys2Proof.Machine

section
variable {TOKEN : Type} {P : Params} {c : Context} {h : Handle} {tok : TOKEN}

/- ==== A chunk ==== -/

/-- A byte emits at most one event (R182). -/
theorem length_feedBytes_le (bs : List Byte) : (feedBytes P c h tok bs).2.length ≤ bs.length := by
  induction bs generalizing c with
  | nil => exact le_refl 0
  | cons b bs ih =>
    have hone : (rxStep P c h tok b).2.toList.length ≤ 1 := by cases (rxStep P c h tok b).2 <;> simp
    have hrest := ih (c := (rxStep P c h tok b).1)
    rw [feedBytes_cons, List.length_append, List.length_cons]
    omega

end

/-- Settles O45: one event at most for each byte, and the chunk's recursion. -/
theorem eventsFollowInputBytes : Obligations.EventsFollowInputBytes := by
  unfold Obligations.EventsFollowInputBytes
  exact fun P c h tok A B => ⟨length_feedBytes_le A, feedBytes_append c A B⟩

/-- Settles O37: the context is written back as it was. -/
theorem emptyFeedChangesNothing : Obligations.EmptyFeedChangesNothing := by
  unfold Obligations.EmptyFeedChangesNothing
  intro s h _ hv hdata
  have hfed : feedBytes s.params (s.ctx h.toNat) h s.operands.token s.operands.data = (s.ctx h.toNat, []) := by
    rw [hdata, feedBytes_nil]
  rw [exec_feed_of_valid hv hfed, State.Of.setCtx_ctx_eq_self]

/-- Settles O52: the second byte is tested against preamble_2 first, and the length states test nothing. -/
theorem equalPreambleRunIsTakenAsHeader : Obligations.EqualPreambleRunIsTakenAsHeader := by
  unfold Obligations.EqualPreambleRunIsTakenAsHeader
  intro P c h tok x hs h1 h2
  have first : rxStep P c h tok x = ({ c with st := .seekP2 }, none) := (rxStep_of_seekP1 hs).trans (if_pos h1.symm)
  have second : rxStep P { c with st := .seekP2 } h tok x =
      ({ c with hdr := { c.hdr with b0 := c.p1, b1 := c.p2 }, st := .lenHi },
        some (plainEvent h tok .preambleDetected)) := (rxStep_of_seekP2 rfl).trans (if_pos h2.symm)
  have pair : feedBytes P c h tok [x, x] =
      ({ c with hdr := { c.hdr with b0 := c.p1, b1 := c.p2 }, st := .lenHi }, [plainEvent h tok .preambleDetected]) := by
    rw [feedBytes_cons, first, feedBytes_cons, second]
    rfl
  have run : [x, x, x, x] = [x, x] ++ [x, x] := rfl
  rw [run, feedBytes_append, pair]
  exact ⟨rfl, rfl, rfl, rfl⟩

/- ==== A run of FEEDs ==== -/

/-- What FEEDs of `pieces`, each with its token, do to their context, one after the other, and the events they emit. -/
def feedPieces (P : Params) (c : Context) (h : Handle) : List (Token × List Byte) → Context × List Event
  | [] => (c, [])
  | piece :: pieces =>
    let fed := feedBytes P c h piece.1 piece.2
    let rest := feedPieces P fed.1 h pieces
    (rest.1, fed.2 ++ rest.2)

theorem feedPieces_cons (P : Params) (c : Context) (h : Handle) (tok : Token) (bs : List Byte)
    (pieces : List (Token × List Byte)) :
    feedPieces P c h ((tok, bs) :: pieces) =
      ((feedPieces P (feedBytes P c h tok bs).1 h pieces).1,
        (feedBytes P c h tok bs).2 ++ (feedPieces P (feedBytes P c h tok bs).1 h pieces).2) := rfl

/-- Pieces with one token are one chunk (R183). -/
theorem feedPieces_of_one_token (P : Params) (c : Context) (h : Handle) (tok : Token) (chunks : List (List Byte)) :
    feedPieces P c h (chunks.map (tok, ·)) = feedBytes P c h tok chunks.flatten := by
  induction chunks generalizing c with
  | nil => rfl
  | cons bs chunks ih => rw [List.map_cons, feedPieces_cons, ih, List.flatten_cons, feedBytes_append]

theorem feedPieces_pair (P : Params) (c : Context) (h : Handle) (tokA tokB : Token) (A B : List Byte) :
    feedPieces P c h [(tokA, A), (tokB, B)] =
      ((feedBytes P (feedBytes P c h tokA A).1 h tokB B).1,
        (feedBytes P c h tokA A).2 ++ (feedBytes P (feedBytes P c h tokA A).1 h tokB B).2) := by
  rw [feedPieces_cons, feedPieces_cons, feedPieces, List.append_nil]

/-- From `s` to `t` the context of `h` became `c` and the events `evs` were returned; no other context changed. -/
structure FedTo (h : Handle) (s t : State) (c : Context) (evs : List Event) : Prop where
  params : t.params = s.params
  nCreated : t.nCreated = s.nCreated
  slots : t.slots = s.slots.set h.toNat c
  responses : ∃ rs, t.responses = s.responses ++ rs ∧ rs.flatMap Response.Of.events = evs

namespace FedTo
variable {h : Handle} {s t u : State} {c d : Context} {evs evs' : List Event}

theorem refl (h : Handle) (s : State) : FedTo h s s (s.ctx h.toNat) [] :=
  ⟨rfl, rfl, (congrArg State.Of.slots (s.setCtx_ctx_eq_self h.toNat)).symm, [], (List.append_nil _).symm, rfl⟩

theorem trans (first : FedTo h s t c evs) (second : FedTo h t u d evs') : FedTo h s u d (evs ++ evs') := by
  obtain ⟨rs, hr, hevs⟩ := first.responses
  obtain ⟨qs, hq, hevs'⟩ := second.responses
  refine ⟨second.params.trans first.params, second.nCreated.trans first.nCreated, ?_, rs ++ qs, ?_, ?_⟩
  · rw [second.slots, first.slots, List.set_set]
  · rw [hq, hr, List.append_assoc]
  · rw [List.flatMap_append, hevs, hevs']

theorem ctx (fed : FedTo h s t c evs) (hslot : h.toNat < s.slots.length) : t.ctx h.toNat = c := by
  simp [State.Of.ctx, fed.slots, hslot]

theorem newEvents_eq (fed : FedTo h s t c evs) : newEvents s t = evs := by
  obtain ⟨rs, hr, hevs⟩ := fed.responses
  rw [newEvents_of_responses_eq hr, hevs]

end FedTo

/-- A FEED as the host sends it. -/
def feedInput (h : Handle) (piece : Token × List Byte) : HostInput := asmInput (.feed h piece.1 piece.2)

/-- A step that takes a FEED on a valid handle feeds its bytes to the context. -/
theorem step_feedInput {s : State} {h : Handle} {tok : Token} {bs : List Byte} {rest : List HostInput}
    (hv : h.toNat < s.nCreated) (hp : s.pending = feedInput h (tok, bs) :: rest) :
    ∃ t, step s = .next t ∧ t.pending = rest ∧
      FedTo h s t (feedBytes s.params (s.ctx h.toNat) h tok bs).1 (feedBytes s.params (s.ctx h.toNat) h tok bs).2 :=
  ⟨_, (step_of_decode_legal hp (decode_encode (.feed h))).trans (exec_feed_of_valid hv rfl), rfl,
    rfl, rfl, rfl, _, rfl, List.flatMap_singleton _ _⟩

/-- A run of FEEDs on a valid handle feeds its context piece after piece. -/
theorem run_feeds {h : Handle} (pieces : List (Token × List Byte)) (s : State) (hv : h.toNat < s.nCreated)
    (hslot : h.toNat < s.slots.length) (hp : s.pending = pieces.map (feedInput h)) :
    ∃ t, core.run pieces.length s = .next t ∧
      FedTo h s t (feedPieces s.params (s.ctx h.toNat) h pieces).1 (feedPieces s.params (s.ctx h.toNat) h pieces).2 := by
  induction pieces generalizing s with
  | nil => exact ⟨s, rfl, .refl h s⟩
  | cons piece pieces ih =>
    obtain ⟨t, hstep, hpending, first⟩ := step_feedInput hv hp
    have hslot' : h.toNat < t.slots.length := by rwa [first.slots, List.length_set]
    obtain ⟨u, hrun, rest⟩ := ih t (first.nCreated ▸ hv) hslot' hpending
    rw [first.params, first.ctx hslot] at rest
    exact ⟨u, run_succ_eq_next_iff.mpr ⟨t, hstep, hrun⟩, first.trans rest⟩

/-- Under the invariant every created context has its slot. -/
theorem State.Of.Inv.slot_exists {s : State} (inv : s.Inv) {h : Handle} (hv : h.toNat < s.nCreated) :
    h.toNat < s.slots.length := by
  obtain ⟨-, hslots, hle, -⟩ := inv
  exact hslots ▸ hv.trans_le hle

/-- FEEDs of `pieces`, the only commands pending, feed the context of `h` piece after piece. -/
theorem run_withFeeds {s : State} {h : Handle} (inv : s.Inv) (hv : h.toNat < s.nCreated)
    (pieces : List (Token × List Byte)) :
    ∃ t, core.run pieces.length (s.withCommands (pieces.map fun piece => .feed h piece.1 piece.2)) = .next t ∧
      FedTo h s t (feedPieces s.params (s.ctx h.toNat) h pieces).1 (feedPieces s.params (s.ctx h.toNat) h pieces).2 := by
  let commands : List AsmCommand := pieces.map fun piece => .feed h piece.1 piece.2
  have hp : (s.withCommands commands).pending = pieces.map (feedInput h) := List.map_map
  obtain ⟨t, hrun, fed⟩ := run_feeds pieces (s.withCommands commands) hv (inv.slot_exists hv) hp
  exact ⟨t, hrun, fed.params, fed.nCreated, fed.slots, fed.responses⟩

/-- FEEDs of chunks with one token have the effect of one FEED of their concatenation. -/
theorem run_chunks {s : State} {h : Handle} (inv : s.Inv) (hv : h.toNat < s.nCreated) (tok : Token)
    (chunks : List (List Byte)) :
    ∃ t, core.run chunks.length (s.withCommands (chunks.map fun d => .feed h tok d)) = .next t ∧
      FedTo h s t (feedBytes s.params (s.ctx h.toNat) h tok chunks.flatten).1
        (feedBytes s.params (s.ctx h.toNat) h tok chunks.flatten).2 := by
  obtain ⟨t, hrun, fed⟩ := run_withFeeds inv hv (chunks.map (tok, ·))
  rw [feedPieces_of_one_token] at fed
  rw [List.length_map, List.map_map] at hrun
  exact ⟨t, hrun, fed⟩

/-- Settles O46: both runs feed the context the same bytes; with two tokens the events differ in these alone. -/
theorem chunkingDoesNotMatter : Obligations.ChunkingDoesNotMatter := by
  unfold Obligations.ChunkingDoesNotMatter
  refine ⟨fun s h tok chunks inv hv => ?oneToken, fun s h tok tokA tokB A B inv hv => ?twoTokens⟩
  case oneToken =>
    obtain ⟨t, hrun, fed⟩ := run_chunks inv hv tok chunks
    obtain ⟨u, hrun', fed'⟩ := run_chunks inv hv tok [chunks.flatten]
    rw [List.flatten_singleton] at fed'
    exact ⟨t, u, hrun, hrun', fed.slots.trans fed'.slots.symm, fed.nCreated.trans fed'.nCreated.symm,
      fed.newEvents_eq.trans fed'.newEvents_eq.symm⟩
  case twoTokens =>
    obtain ⟨t, hrun, fed⟩ := run_withFeeds inv hv [(tokA, A), (tokB, B)]
    obtain ⟨u, hrun', fed'⟩ := run_chunks inv hv tok [A ++ B]
    rw [feedPieces_pair] at fed
    rw [List.flatten_singleton, feedBytes_append, feedBytes_retoken _ _ _ tokA tok A,
      feedBytes_retoken _ _ _ tokB tok B] at fed'
    have hA := handle_token_of_mem_feedBytes (P := s.params) (c := s.ctx h.toNat) (h := h) (tok := tokA) A
    have hB := handle_token_of_mem_feedBytes (P := s.params)
      (c := (feedBytes s.params (s.ctx h.toNat) h tokA A).1) (h := h) (tok := tokB) B
    refine ⟨t, u, _, _, hrun, hrun', fed.slots.trans fed'.slots.symm, fed.newEvents_eq, fun e he => (hA e he).2,
      fun e he => (hB e he).2, ?_⟩
    rw [fed'.newEvents_eq, List.map_append]

/- ==== Silence ==== -/

section
variable {TOKEN : Type} {P : Params} {c : Context} {h : Handle} {tok : TOKEN}

/-- The search, with no preamble to come: in SEEK_P2 a preamble_1 has just been taken. -/
def SearchesInVain (c : Context) (data : List Byte) : Prop :=
  (c.st = .seekP1 ∧ NoPreamble c.p1 c.p2 data) ∨ (c.st = .seekP2 ∧ NoPreamble c.p1 c.p2 (c.p1 :: data))

theorem NoPreamble.tail {p1 p2 b : Byte} {bs : List Byte} (hno : NoPreamble p1 p2 (b :: bs)) : NoPreamble p1 p2 bs :=
  fun i => hno (i + 1)

theorem NoPreamble.second_ne {p1 p2 b : Byte} {bs : List Byte} (hno : NoPreamble p1 p2 (p1 :: b :: bs)) : b ≠ p2 :=
  fun hb => hno 0 ⟨rfl, congrArg some hb⟩

/-- A byte of such a search emits nothing and leaves such a search of the rest. -/
theorem rxStep_of_searchesInVain {b : Byte} {bs : List Byte} (hno : SearchesInVain c (b :: bs)) :
    (rxStep P c h tok b).2 = none ∧ SearchesInVain (rxStep P c h tok b).1 bs := by
  rcases hno with ⟨hs, hno⟩ | ⟨hs, hno⟩
  · rw [rxStep_of_seekP1 hs, rxSeekP1]
    split_ifs with hb
    · exact ⟨rfl, .inr ⟨rfl, hb ▸ hno⟩⟩
    · exact ⟨rfl, .inl ⟨hs, hno.tail⟩⟩
  · rw [rxStep_of_seekP2 hs, rxSeekP2, if_neg hno.second_ne]
    split_ifs with hb
    · exact ⟨rfl, .inr ⟨hs, hb ▸ hno.tail⟩⟩
    · exact ⟨rfl, .inl ⟨rfl, hno.tail.tail⟩⟩

theorem feedBytes_of_searchesInVain {bs : List Byte} (hno : SearchesInVain c bs) :
    (feedBytes P c h tok bs).2 = [] ∧
      ((feedBytes P c h tok bs).1.st = .seekP1 ∨ (feedBytes P c h tok bs).1.st = .seekP2) := by
  induction bs generalizing c with
  | nil => exact ⟨rfl, hno.imp And.left And.left⟩
  | cons b bs ih =>
    obtain ⟨hnone, hnext⟩ := rxStep_of_searchesInVain (P := P) (h := h) (tok := tok) hno
    obtain ⟨hevents, hst⟩ := ih hnext
    rw [feedBytes_cons, hnone, hevents]
    exact ⟨rfl, hst⟩

/-- In SEEK_P2 a preamble_2 is detected, whatever follows (R164). -/
theorem feedBytes_of_preamble2 (hs : c.st = .seekP2) (rest : List Byte) :
    ∃ c' es, feedBytes P c h tok (c.p2 :: rest) = (c', plainEvent h tok .preambleDetected :: es) := by
  have hstep := rxStep_of_seekP2 (P := P) (h := h) (tok := tok) (b := c.p2) hs
  rw [rxSeekP2, if_pos rfl] at hstep
  rw [feedBytes_cons, hstep]
  exact ⟨_, _, rfl⟩

end

/-- A FEED on a valid handle leaves in its slot the context its bytes lead to. -/
theorem ctx_of_exec_feed {s : State} {h : Handle} {c : Context} (r : Response) (inv : s.Inv) (hv : h.toNat < s.nCreated) :
    ((s.setCtx h.toNat c).respond r).ctx h.toNat = c :=
  s.setCtx_ctx_self h.toNat c (inv.slot_exists hv)

/-- Settles O48: data without the preamble is a search in vain; and SEEK_P2 tests preamble_2 first. -/
theorem silenceWithoutPreamble : Obligations.SilenceWithoutPreamble := by
  unfold Obligations.SilenceWithoutPreamble
  refine ⟨fun s h inv hv hs hno => ?silent, fun s h rest _ hv hs hdata => ?detected⟩
  case silent =>
    obtain ⟨hevents, hst⟩ := feedBytes_of_searchesInVain (P := s.params) (h := h) (tok := s.operands.token)
      (.inl ⟨hs, hno⟩ : SearchesInVain (s.ctx h.toNat) s.operands.data)
    have hexec := exec_feed_of_valid (evs := []) hv (Prod.ext rfl hevents)
    refine ⟨_, hexec, rfl, ?_⟩
    rw [ctx_of_exec_feed _ inv hv]
    exact hst
  case detected =>
    obtain ⟨c, es, hfed⟩ := feedBytes_of_preamble2 (P := s.params) (h := h) (tok := s.operands.token) hs rest
    exact ⟨_, es, exec_feed_of_valid hv (hdata ▸ hfed), rfl⟩

end Sys2Proof.Machine
end

section
/-!
PROOFS. Whole frames: a valid frame fed from SEEK_P1 is delivered, alone and back to back (R190); a frame BUILD_SG makes is
valid and comes back (R150); and a frame with one bit flipped is caught (R189).
-/

namespace Sys2Proof.Machine

section
variable {TOKEN : Type} {P : Params} {c : Context} {h : Handle} {tok : TOKEN} {m : Header} {p F : List Byte}

/- ==== A valid frame is delivered ==== -/

/-- Eight bytes and more are a header and a payload. -/
theorem exists_eq_toList_append (hF : 8 ≤ F.length) : ∃ (m : Header) (p : List Byte), F = m.toList ++ p :=
  match F, hF with
  | b0 :: b1 :: b2 :: b3 :: b4 :: b5 :: b6 :: b7 :: p, _ => ⟨⟨b0, b1, b2, b3, b4, b5, b6, b7⟩, p, rfl⟩

/-- A zero-length frame whose two CRCs are right is delivered at HCRC_LO (R178). -/
theorem feedBytes_empty_frame (hs : c.st = .seekP1) (h0 : m.b0 = c.p1) (h1 : m.b1 = c.p2)
    (hcrc : crc16 P m.forming 0x0000#16 = join16 m.b6 m.b7) (hzero : join16 m.b2 m.b3 = 0x0000#16)
    (hdata : join16 m.b4 m.b5 = 0x0000#16) :
    feedBytes P c h tok m.toList =
      ({ c.accepted m with st := .seekP1 }, [plainEvent h tok .preambleDetected, validDataEvent h tok m []]) := by
  have hmatch : HeaderMatches P (c.stagedToHcrcLo m) m.b7 := hcrc
  have hfits : (join16 m.b2 m.b3).toNat ≤ P.maxPayload := by rw [hzero]; exact Nat.zero_le _
  have last : rxStep P (c.stagedToHcrcLo m) h tok m.b7 =
      ({ c.accepted m with st := .seekP1 }, some (validDataEvent h tok m [])) :=
    (rxStep_of_header_match rfl hmatch).trans ((acceptHeader_of_zero hfits hzero).trans (if_pos hdata))
  have hlist : m.toList = [m.b0, m.b1, m.b2, m.b3, m.b4, m.b5, m.b6] ++ [m.b7] := rfl
  rw [hlist, feedBytes_append, feedBytes_toHcrcLo hs h0 h1, feedBytes_cons, last]
  rfl

/-- A valid frame that fits the receive buffer, fed from SEEK_P1, is delivered, and the search begins again (R178, R180). -/
theorem feedBytes_validFrame (hs : c.st = .seekP1) (hvalid : ValidFrame P c (m.toList ++ p))
    (hfits : p.length ≤ P.maxPayload) :
    feedBytes P c h tok (m.toList ++ p) =
      ({ c.accepted m with st := .seekP1 }, [plainEvent h tok .preambleDetected, validDataEvent h tok m p]) := by
  obtain ⟨h0, h1, hlen, hcrc, hdata⟩ := validFrame_append_iff.mp hvalid
  rcases List.eq_nil_or_concat p with rfl | ⟨body, last, rfl⟩
  · have hzero : join16 m.b2 m.b3 = 0x0000#16 := BitVec.eq_of_toNat_eq hlen.symm
    rw [List.append_nil]
    exact feedBytes_empty_frame hs h0 h1 hcrc.symm hzero hdata
  · rw [List.length_concat] at hlen hfits
    rw [List.concat_eq_append] at hdata ⊢
    exact feedBytes_frame hs h0 h1 hcrc.symm hlen hfits hdata.symm

end

/-- Settles O51: the chunks feed the two frames as one stream, and the first leaves the context searching. -/
theorem backToBackFramesAreBothDelivered : Obligations.BackToBackFramesAreBothDelivered := by
  unfold Obligations.BackToBackFramesAreBothDelivered
  intro s h tok F1 F2 chunks inv hv hs hvalid1 hfits1 hvalid2 hfits2 hchunks
  obtain ⟨m1, p1, rfl⟩ := exists_eq_toList_append hvalid1.1
  obtain ⟨m2, p2, rfl⟩ := exists_eq_toList_append hvalid2.1
  obtain ⟨t, hrun, fed⟩ := run_chunks inv hv tok chunks
  have first := feedBytes_validFrame (h := h) (tok := tok) hs hvalid1 hfits1
  have second := feedBytes_validFrame (c := { (s.ctx h.toNat).accepted m1 with st := .seekP1 }) (h := h) (tok := tok) rfl
    hvalid2 hfits2
  rw [hchunks, feedBytes_append, first, second] at fed
  exact ⟨t, m1, m2, hrun, fed.newEvents_eq, rfl, rfl⟩

/- ==== A built frame comes back ==== -/

/-- The header of a frame, as the receiver stages it (R140). -/
def generatedHeader (P : Params) (p1 p2 : Byte) (len dataCrc : U16) : Header :=
  let crc := crc16 P (headerForming p1 p2 len dataCrc) 0x0000#16
  ⟨p1, p2, len.extractLsb' 8 8, len.extractLsb' 0 8, dataCrc.extractLsb' 8 8, dataCrc.extractLsb' 0 8,
    crc.extractLsb' 8 8, crc.extractLsb' 0 8⟩

theorem toList_generatedHeader (P : Params) (p1 p2 : Byte) (len dataCrc : U16) :
    (generatedHeader P p1 p2 len dataCrc).toList = headerGen P p1 p2 len dataCrc := rfl

/-- A generated header, of a payload whose length 16 bits hold, makes a valid frame with it. -/
theorem validFrame_generatedHeader (P : Params) (c : Context) {p : List Byte} (hp : p.length ≤ 65535) :
    ValidFrame P c ((generatedHeader P c.p1 c.p2 (BitVec.ofNat 16 p.length) (crc16 P p 0x0000#16)).toList ++ p) := by
  have hlen : p.length = (BitVec.ofNat 16 p.length).toNat := by
    rw [BitVec.toNat_ofNat, Nat.mod_eq_of_lt (Nat.lt_succ_of_le hp)]
  refine validFrame_append_iff.mpr ⟨rfl, rfl, ?_, join16_extractLsb' _, join16_extractLsb' _⟩
  exact hlen.trans (congrArg BitVec.toNat (join16_extractLsb' _).symm)

/-- Within the capacity and 16 bits BUILD_SG returns a valid frame of its payload. -/
theorem exec_buildSg_validFrame {s : State} {h : Handle} {S : List (List Byte)} (hv : h.toNat < s.nCreated)
    (hcount : segmentsExceed s.params.maxSegments S.length = false) (hwidth : totalLength S ≤ 65535)
    (hfits : totalLength S ≤ s.params.txMaxPayload) :
    ∃ m : Header, ValidFrame s.params (s.ctx h.toNat) (m.toList ++ S.flatten) ∧
      exec (.buildSg h) (s.withSegs S) =
        .next ((s.withSegs S).respond { status := .ok, result := some (.frame (m.toList ++ S.flatten)) }) := by
  have hbuild := exec_buildSg_of_fits (s := s.withSegs S) hv hcount hwidth hfits
  rw [buildFrame_eq, ← toList_generatedHeader] at hbuild
  rw [totalLength_eq_length_flatten] at hwidth
  exact ⟨_, validFrame_generatedHeader s.params (s.ctx h.toNat) hwidth, hbuild⟩

/-- FEED of a valid frame to a context in SEEK_P1 delivers it. -/
theorem exec_feed_validFrame {s : State} {h : Handle} {m : Header} {p : List Byte} (tok : Token) (inv : s.Inv)
    (hv : h.toNat < s.nCreated) (hs : (s.ctx h.toNat).st = .seekP1)
    (hvalid : ValidFrame s.params (s.ctx h.toNat) (m.toList ++ p)) (hfits : p.length ≤ s.params.maxPayload) :
    ∃ t, exec (.feed h) (s.withFeed tok (m.toList ++ p)) = .next t ∧
      newResponses s t = [{ status := .ok, result := some (.events
        [plainEvent h tok .preambleDetected, validDataEvent h tok m p]) }] ∧ (t.ctx h.toNat).st = .seekP1 := by
  have hfed := feedBytes_validFrame (h := h) (tok := tok) hs hvalid hfits
  refine ⟨_, exec_feed_of_valid (s := s.withFeed tok (m.toList ++ p)) hv hfed, newResponses_of_responses_eq rfl, ?_⟩
  rw [ctx_of_exec_feed (s := s.withFeed tok (m.toList ++ p)) _ inv hv]

/-- Settles O50: the frame is a generated header and the payload, so it is valid, and a valid frame is delivered. -/
theorem builtFrameRoundTrips : Obligations.BuiltFrameRoundTrips := by
  unfold Obligations.BuiltFrameRoundTrips
  intro s h tok S inv hv hs hcount htotal
  obtain ⟨htx, hrx⟩ := le_min_iff.mp htotal
  have hwidth : totalLength S ≤ 65535 := by
    obtain ⟨hwf, -⟩ := inv
    obtain ⟨-, -, hmax, -⟩ := (Params.wf_iff s.params).mp hwf
    exact hrx.trans hmax
  obtain ⟨m, hvalid, hbuild⟩ := exec_buildSg_validFrame hv hcount hwidth htx
  rw [totalLength_eq_length_flatten] at hrx
  let t := (s.withSegs S).respond { status := .ok, result := some (.frame (m.toList ++ S.flatten)) }
  obtain ⟨u, hfeed, hresp, hst⟩ := exec_feed_validFrame (s := t) tok inv hv hs hvalid hrx
  exact ⟨t, u, _, m, hbuild, newResponses_of_responses_eq rfl, hvalid, hfeed, rfl, hresp, hst⟩

/- ==== A flipped bit is caught ==== -/

section
variable {TOKEN : Type} {P : Params} {c : Context} {h : Handle} {tok : TOKEN} {m : Header} {p : List Byte} {i k : Nat}

/-- A payload of the right length with a wrong CRC, behind a good header, is a DATA_CRC_ERROR (R181). -/
theorem feedBytes_wrong_payload (hs : c.st = .seekP1) (h0 : m.b0 = c.p1)
    (h1 : m.b1 = c.p2) (hcrc : crc16 P m.forming 0x0000#16 = join16 m.b6 m.b7)
    (hlen : p.length = (join16 m.b2 m.b3).toNat) (hpos : p ≠ []) (hfits : p.length ≤ P.maxPayload)
    (hdata : crc16 P p 0x0000#16 ≠ join16 m.b4 m.b5) :
    (feedBytes P c h tok (m.toList ++ p)).2 = [plainEvent h tok .preambleDetected, plainEvent h tok .dataCrcError] ∧
      (feedBytes P c h tok (m.toList ++ p)).1.st = .seekP1 := by
  obtain ⟨body, last, rfl⟩ := (List.eq_nil_or_concat p).resolve_left hpos
  rw [List.length_concat] at hlen hfits
  rw [List.concat_eq_append] at hdata ⊢
  have hnonzero : join16 m.b2 m.b3 ≠ 0x0000#16 := by
    intro hzero
    rw [hzero] at hlen
    exact absurd hlen (Nat.succ_ne_zero _)
  have header := feedBytes_header (P := P) (h := h) (tok := tok) hs h0 h1 hcrc (hlen ▸ hfits) hnonzero
  have collected : feedBytes P (c.accepted m) h tok body =
      ({ c.accepted m with rx := body, rxCrc := crc16 P body 0x0000#16 }, []) :=
    feedBytes_payload_incomplete rfl ((Nat.zero_add _).trans_lt (Nat.lt_of_succ_le hlen.le))
  have hwrong : crcStep P (crc16 P body 0x0000#16) last ≠ join16 m.b4 m.b5 := by
    rwa [crc16_append, crc16_cons, crc16_nil] at hdata
  have dropped := (rxStep_of_payload_complete (P := P) (h := h) (tok := tok) (b := last)
    (c := { c.accepted m with rx := body, rxCrc := crc16 P body 0x0000#16 }) rfl hlen).trans (if_neg hwrong)
  rw [feedBytes_append, header, feedBytes_append, collected, feedBytes_cons, dropped]
  exact ⟨rfl, rfl⟩

/-- A header whose CRC is wrong is a HEADER_CRC_ERROR, and what follows is searched (R171). -/
theorem feedBytes_wrong_header (hs : c.st = .seekP1) (h0 : m.b0 = c.p1) (h1 : m.b1 = c.p2)
    (hcrc : crc16 P m.forming 0x0000#16 ≠ join16 m.b6 m.b7) (rest : List Byte) :
    ∃ d : Context, d.st = .seekP1 ∧ d.p1 = c.p1 ∧ d.p2 = c.p2 ∧ (feedBytes P c h tok (m.toList ++ rest)).2 =
      plainEvent h tok .preambleDetected :: plainEvent h tok .headerCrcError :: (feedBytes P d h tok rest).2 := by
  have hwrong : ¬ HeaderMatches P (c.stagedToHcrcLo m) m.b7 := hcrc
  have last := rxStep_of_header_mismatch (P := P) (h := h) (tok := tok) rfl hwrong
  have hlist : m.toList ++ rest = [m.b0, m.b1, m.b2, m.b3, m.b4, m.b5, m.b6] ++ m.b7 :: rest := rfl
  rw [hlist, feedBytes_append, feedBytes_toHcrcLo hs h0 h1, feedBytes_cons, last]
  exact ⟨{ stageHcrcLo (c.stagedToHcrcLo m) m.b7 with st := .seekP1 }, rfl, rfl, rfl, rfl⟩

/-- A byte that is not preamble_1 is passed over (R163). -/
theorem feedBytes_wrong_first {b : Byte} (hs : c.st = .seekP1) (hb : b ≠ c.p1) (rest : List Byte) :
    feedBytes P c h tok (b :: rest) = feedBytes P c h tok rest := by
  rw [feedBytes_cons, rxStep_of_seekP1 hs, rxSeekP1, if_neg hb]
  rfl

/-- After preamble_1 a byte that is not preamble_2 leaves the search as it found it, in SEEK_P1 or SEEK_P2 (R164). -/
theorem feedBytes_wrong_second {b : Byte} (hs : c.st = .seekP1) (hb : b ≠ c.p2) (rest : List Byte) :
    ∃ d : Context, (d.st = .seekP1 ∨ d.st = .seekP2) ∧ d.p1 = c.p1 ∧ d.p2 = c.p2 ∧
      (feedBytes P c h tok (c.p1 :: b :: rest)).2 = (feedBytes P d h tok rest).2 := by
  have first : rxStep P c h tok c.p1 = ({ c with st := .seekP2 }, none) := (rxStep_of_seekP1 hs).trans (if_pos rfl)
  have second := rxStep_of_seekP2 (P := P) (c := { c with st := .seekP2 }) (h := h) (tok := tok) (b := b) rfl
  rw [rxSeekP2, if_neg hb] at second
  rw [feedBytes_cons, first, feedBytes_cons, second]
  split_ifs
  · exact ⟨{ c with st := .seekP2 }, .inr rfl, rfl, rfl, rfl⟩
  · exact ⟨{ c with st := .seekP1 }, .inl rfl, rfl, rfl, rfl⟩

/-- The header with bit `k` of byte `i` inverted. -/
def Header.flip (m : Header) (i k : Nat) : Header :=
  let flip (j : Nat) (b : Byte) : Byte := if i = j then b ^^^ 1#8 <<< k else b
  ⟨flip 0 m.b0, flip 1 m.b1, flip 2 m.b2, flip 3 m.b3, flip 4 m.b4, flip 5 m.b5, flip 6 m.b6, flip 7 m.b7⟩

/-- A bit of the first eight bytes of a frame is one of its header. -/
theorem flipBit_toList_append (hi : i < 8) : flipBit (m.toList ++ p) i k = (m.flip i k).toList ++ p := by
  interval_cases i <;> rfl

/-- A bit past the first eight bytes of a frame is one of its payload. -/
theorem flipBit_append_payload (hi : 8 ≤ i) : flipBit (m.toList ++ p) i k = m.toList ++ flipBit p (i - 8) k := by
  obtain ⟨j, rfl⟩ := Nat.exists_eq_add_of_le hi
  rw [Nat.add_sub_cancel_left]
  exact List.modifyTailIdx_add _ j m.toList p

theorem join16_inj {a b a' b' : Byte} (heq : join16 a b = join16 a' b') : a = a' ∧ b = b' := by
  constructor
  · rw [← extractLsb'_join16_high a b, heq, extractLsb'_join16_high]
  · rw [← extractLsb'_join16_low a b, heq, extractLsb'_join16_low]

/-- A flipped bit in the header makes its CRC wrong: it changes the bytes covered, or the CRC sent with them. -/
theorem crc16_forming_flip_ne (hcrc : join16 m.b6 m.b7 = crc16 P m.forming 0x0000#16) (hi : i < 8) (hk : k < 8) :
    crc16 P (m.flip i k).forming 0x0000#16 ≠ join16 (m.flip i k).b6 (m.flip i k).b7 := by
  by_cases hcovered : i < 6
  · have hforming : (m.flip i k).forming = flipBit m.forming i k := by interval_cases i <;> rfl
    have hsent : join16 (m.flip i k).b6 (m.flip i k).b7 = join16 m.b6 m.b7 := by interval_cases i <;> rfl
    rw [hforming, hsent, hcrc]
    exact crc16_flipBit_ne P hcovered hk 0x0000#16
  · have hforming : (m.flip i k).forming = m.forming := by interval_cases i <;> rfl
    rw [hforming, ← hcrc]
    intro heq
    obtain ⟨h6, h7⟩ := join16_inj heq
    obtain rfl | rfl : i = 6 ∨ i = 7 := by omega
    · exact xor_bit_ne m.b6 hk h6.symm
    · exact xor_bit_ne m.b7 hk h7.symm

end

/-- Settles O49: a flip in the payload makes the data CRC wrong, one in bytes 2 to 7 the header CRC, and one in a preamble byte
makes it another byte. -/
theorem singleBitErrorsAreCaught : Obligations.SingleBitErrorsAreCaught := by
  unfold Obligations.SingleBitErrorsAreCaught
  intro s h tok F i k inv hv hs hvalid hfits hi hk
  obtain ⟨m, p, rfl⟩ := exists_eq_toList_append hvalid.1
  obtain ⟨h0, h1, hlen, hcrc, hdata⟩ := validFrame_append_iff.mp hvalid
  refine ⟨_, _, exec_feed_of_valid (s := s.withFeed tok (flipBit (m.toList ++ p) i k)) hv rfl, rfl, fun hpayload => ?payload,
    fun hpast hheader => ?header, fun hfirst => ?first, fun hsecond => ?second⟩
  case payload =>
    have hj : i - 8 < p.length := by rw [List.length_append] at hi; exact Nat.sub_lt_left_of_lt_add hpayload hi
    have hlength : (flipBit p (i - 8) k).length = p.length := List.length_modify _ _ _
    have hwrong : crc16 s.params (flipBit p (i - 8) k) 0x0000#16 ≠ join16 m.b4 m.b5 :=
      hdata ▸ crc16_flipBit_ne s.params hj hk 0x0000#16
    have hsome : flipBit p (i - 8) k ≠ [] := List.ne_nil_of_length_pos (hlength ▸ Nat.zero_lt_of_lt hj)
    obtain ⟨hevents, hst⟩ := feedBytes_wrong_payload (h := h) (tok := tok) hs h0 h1 hcrc.symm (hlength.trans hlen) hsome
      (hlength.trans_le hfits) hwrong
    rw [ctx_of_exec_feed (s := s.withFeed tok _) _ inv hv, flipBit_append_payload hpayload]
    exact ⟨hevents, hst⟩
  case header =>
    have hb0 : (m.flip i k).b0 = m.b0 := if_neg (by omega)
    have hb1 : (m.flip i k).b1 = m.b1 := if_neg (by omega)
    rw [flipBit_toList_append hheader]
    exact feedBytes_wrong_header hs (hb0.trans h0) (hb1.trans h1) (crc16_forming_flip_ne hcrc hheader hk) p
  case first =>
    have hb : m.b0 ^^^ 1#8 <<< k ≠ (s.ctx h.toNat).p1 := h0 ▸ xor_bit_ne m.b0 hk
    rw [hfirst]
    exact congrArg Prod.snd (feedBytes_wrong_first hs hb _)
  case second =>
    have hb : m.b1 ^^^ 1#8 <<< k ≠ (s.ctx h.toNat).p2 := h1 ▸ xor_bit_ne m.b1 hk
    have hflip : flipBit (m.toList ++ p) 1 k =
        (s.ctx h.toNat).p1 :: (m.b1 ^^^ 1#8 <<< k) :: (m.toList ++ p).drop 2 := h0 ▸ rfl
    rw [hsecond, hflip]
    exact feedBytes_wrong_second hs hb _

end Sys2Proof.Machine
end
